-- ==== Sys2Proof/Word.lean ====
section
/-! DEFINITION. The byte, the one word width of hx1230-tx (spec/20_memory.md R60). -/

namespace Sys2Proof

/-- A byte: 8 bits, bit 7 the most significant, read as an unsigned value (00_scope.md R5). -/
abbrev Byte := BitVec 8

end Sys2Proof
end

