-- ==== Sys2Proof/Syntax.lean ====
section
/-! DEFINITION. The operations of the block, one constructor per row of spec/opcode_table.json, and the
forms in which a host names one. -/

namespace Sys2Proof

/-- The classification of a byte list: `c = 0` command, `c = 1` data (30_encoding.md R90). -/
inductive Classification where
  | command
  | data
deriving DecidableEq, Repr, Inhabited

/-- One constructor per row of spec/opcode_table.json. Operands of the encoder are 8-bit unsigned
(30_encoding.md R84, decision D4); an operand outside its documented range is legal (R88). -/
inductive Instr where
  /-- `CONTRAST v`, R111. -/
  | contrast (v : Byte)
  /-- `LINE v`, R112. -/
  | line (v : Byte)
  /-- `PAGE v`, R113. -/
  | page (v : Byte)
  /-- `COL_LO v`, R114; `v` is the whole column number. -/
  | colLo (v : Byte)
  /-- `COL_HI v`, R115; `v` is the whole column number. -/
  | colHi (v : Byte)
  /-- `RESET`, R116: the panel's reset byte, not the block reset. -/
  | reset
  /-- `POWER_ON`, R117. -/
  | powerOn
  /-- `POWER_OFF`, R118. -/
  | powerOff
  /-- `HFLIP_ON`, R119. -/
  | hflipOn
  /-- `HFLIP_OFF`, R120. -/
  | hflipOff
  /-- `VFLIP_ON`, R121. -/
  | vflipOn
  /-- `VFLIP_OFF`, R122. -/
  | vflipOff
  /-- `TEST_ON`, R123. -/
  | testOn
  /-- `TEST_OFF`, R124. -/
  | testOff
  /-- `INVERT_ON`, R125. -/
  | invertOn
  /-- `INVERT_OFF`, R126. -/
  | invertOff
  /-- `DISPLAY_ON`, R127. -/
  | displayOn
  /-- `DISPLAY_OFF`, R128. -/
  | displayOff
  /-- `INIT_SEQUENCE`, R129. -/
  | initSequence
  /-- `SET_POSITION col, row`, R130; `row` is a page number. -/
  | setPosition (col row : Byte)
  /-- `PACK(c, K)`, 41_bitpack_transmitter.md R141. -/
  | pack (c : Classification) (bytes : List Byte)
  /-- `SEND(c, B)`, R144. -/
  | send (c : Classification) (bytes : List Byte)
deriving DecidableEq, Repr

/-- How a host names an operation. DESIGN CHOICE (log 2): the source has entry points only; the forms
are the encodings of spec/opcode_table.json and the ports of 92_eei_decisions.md D3. -/
inductive Request where
  /-- The opcode byte a `CENC` builder yields (30_encoding.md R81, R85). -/
  | opcode (op : Byte)
  /-- `CENC`'s 5-bit selector with its 8-bit argument (R85, R89). -/
  | select (sel : BitVec 5) (arg : Byte)
  /-- The byte list of a sequence generator (formats SEQ10 and SEQ3 of the table). -/
  | sequence (ops : List Byte)
  /-- The position port: column and page number, 8 bits each (D3). -/
  | position (col row : Byte)
  /-- The packed block a `PACK` yields (format BLK(n), R83). -/
  | block (out : List Byte)
  /-- A call: it has no opcode and is named by its classification bit (R93). -/
  | call (c : Classification) (bytes : List Byte)
deriving DecidableEq, Repr

/-- Why a request names no operation. -/
inductive Reject where
  /-- A byte value no row produces (30_encoding.md R87). -/
  | noRow (op : Byte)
  /-- A selector value 18 to 31 (R89). -/
  | reservedSelector (sel : BitVec 5)
  /-- A byte list that is neither the initialization nor a position sequence. -/
  | noSequence (ops : List Byte)
  /-- A byte list that is no packed block (R83). -/
  | noBlock (out : List Byte)
deriving DecidableEq, Repr

end Sys2Proof
end

