-- ==== Sys2Proof/Config.lean ====
section
/-! DEFINITION. The fixed parameters of the block (spec/00_scope.md R3, R4) and the free values the spec
leaves open. -/

namespace Sys2Proof.Config

/-- `WORD_BITS`: one control bit and 8 data bits (R3). -/
abbrev wordBits : Nat := 9

/-- `BUS_BITS`: bits of a bus word (R3). -/
abbrev busBits : Nat := 8

/-- `BLOCK_MAX`: most logical bytes in one block (R3). -/
abbrev blockMax : Nat := 8

/-- `SCRATCH_BYTES`: cells of the scratch buffer (R3). -/
abbrev scratchBytes : Nat := 9

/-- `W`: frame buffer columns in the reference configuration (R3). -/
abbrev columns : Nat := 96

/-- `H`: frame buffer lines in the reference configuration (R3). -/
abbrev lines : Nat := 9

/-- `SETTLE_US`: the host's wait after the panel reset byte, in microseconds (R3). -/
abbrev settleUs : Nat := 100

/-- FREE VALUE (log 8). How many bits of an unfinished bus write reached the wire (10_state.md R28,
93_implementation_defined.md U2); the argument is the counter `draws` of State. -/
opaque cutOfWrite : Nat → Nat

/-- FREE VALUE (log 12). `c_lat` after a block reset, unspecified by 70_reset_and_hazards.md R200. -/
opaque classAfterReset : Nat → Classification

/-- FREE VALUE (log 12). `n_cur` less one after a block reset, unspecified by R200; 10_state.md R26 gives
`n_cur` the range 1 to 8. -/
opaque sizeAfterReset : Nat → Fin 8

/-- FREE VALUE (log 12). `scratch` after a block reset, unspecified by R200. -/
opaque scratchAfterReset : Nat → Vector Byte scratchBytes

end Sys2Proof.Config
end

