-- ==== Sys2Proof/Machine/Bits.lean ====
section
/-! DEFINITION. Bits of a byte and bytes of a bit stream, most significant bit first (spec/20_memory.md
R54, R55). -/

namespace Sys2Proof

/-- The control bit: 0 for a command, 1 for data (30_encoding.md R90). -/
def Classification.bit : Classification → Bool
  | .command => false
  | .data => true

/-- The classification a control bit stands for (R90). -/
def Classification.ofBit : Bool → Classification
  | false => .command
  | true => .data

/-- The control bit as a byte, 0 or 1. -/
def Classification.byte (c : Classification) : Byte := (BitVec.ofBool c.bit).setWidth 8

/-- The bits of a byte, bit 7 first (20_memory.md R54). -/
def byteBits (b : Byte) : List Bool :=
  [b.getLsbD 7, b.getLsbD 6, b.getLsbD 5, b.getLsbD 4, b.getLsbD 3, b.getLsbD 2, b.getLsbD 1, b.getLsbD 0]

/-- The byte whose bit `7 - m` is `f m` (R55). -/
def byteOfBits (f : Nat → Bool) : Byte :=
  BitVec.ofBool (f 0) ++ BitVec.ofBool (f 1) ++ BitVec.ofBool (f 2) ++ BitVec.ofBool (f 3) ++
    BitVec.ofBool (f 4) ++ BitVec.ofBool (f 5) ++ BitVec.ofBool (f 6) ++ BitVec.ofBool (f 7)

/-- The bits of a byte list, byte 0 first (R55). -/
def bytesBits (l : List Byte) : List Bool := l.flatMap byteBits

end Sys2Proof
end

