-- ==== Sys2Proof/Machine/Packing.lean ====
section
/-! DEFINITION. The packing function of the transmitter, its closed forms and its inverse
(spec/41_bitpack_transmitter.md R141, R142, R153). -/

namespace Sys2Proof

/-- The bit stream of a block: for each byte the control bit, then the byte's bits, bit 7 first (R141
step 1, 20_memory.md R54). -/
def bitStream (c : Classification) (K : List Byte) : List Bool :=
  K.flatMap fun b => c.bit :: byteBits b

/-- Output byte `k` of a bit stream: bit `7 - m` is stream bit `8k + m`, and 0 past its end (R141 steps 2
and 3). -/
def outByte (S : List Bool) (k : Nat) : Byte := byteOfBits fun m => S.getD (8 * k + m) false

/-- `ceil(9·n/8)`, the output byte count of a block of `n` bytes (R141). -/
def outCount (n : Nat) : Nat := (Config.wordBits * n + 7) / Config.busBits

/-- `PACK(c, K)` as a value (R141). -/
def pack (c : Classification) (K : List Byte) : List Byte :=
  (List.range (outCount K.length)).map (outByte (bitStream c K))

/-- `PACK` byte by byte (R142). -/
def packByBytes (c : Classification) (K : List Byte) : List Byte :=
  (List.range (K.length + 1)).map fun k =>
    if k = 0 then (c.byte <<< 7) ||| (K.getD 0 0 >>> 1)
    else if k < K.length then
      (K.getD (k - 1) 0 <<< (8 - k)) ||| (c.byte <<< (7 - k)) ||| (K.getD k 0 >>> (k + 1))
    else K.getD (K.length - 1) 0 <<< (8 - K.length)

/-- The 9-bit words of a block as one number, word 0 most significant (R142, 30_encoding.md R82). -/
def wordsNumber (c : Classification) (K : List Byte) : Nat :=
  ((List.range K.length).map fun i =>
    (256 * c.byte.toNat + (K.getD i 0).toNat) * 2 ^ (9 * (K.length - 1 - i))).sum

/-- `PACK` as one number cut into bytes, most significant first (R142). -/
def packByNumber (c : Classification) (K : List Byte) : List Byte :=
  (List.range (K.length + 1)).map fun k =>
    BitVec.ofNat 8 (wordsNumber c K * 2 ^ (8 - K.length) / 2 ^ (8 * (K.length - k)))

/-- `UNPACK(out)`: the control bits, the bytes and the pad bits (R153). -/
def unpack (out : List Byte) : List Bool × List Byte × List Bool :=
  let n := out.length - 1
  let S := bytesBits out
  ((List.range n).map fun i => S.getD (9 * i) false,
   (List.range n).map fun i => byteOfBits fun j => S.getD (9 * i + 1 + j) false,
   S.drop (9 * n))

end Sys2Proof
end

