-- ==== Sys2Proof/WellFormed.lean ====
section
/-! DEFINITION. Well-formed instructions: the ones an encoding of the opcode table names exactly. An
ill-formed operand is no error of the block (30_encoding.md R88): the operation runs and masks it. -/

namespace Sys2Proof

/-- Every operand is one its encoding holds without loss: the argument fields of 30_encoding.md R84, and
the block size of 41_bitpack_transmitter.md R140. -/
def Instr.wf : Instr → Bool
  | .contrast v => v < 32
  | .line v => v < 64
  | .page v => v < 16
  | .colLo v => v < 16
  | .colHi v => v &&& 0x8F == 0
  | .setPosition col row => col < 128 && row < 16
  | .pack _ bytes => 1 ≤ bytes.length && bytes.length ≤ 8
  | .reset | .powerOn | .powerOff | .hflipOn | .hflipOff | .vflipOn | .vflipOff | .testOn | .testOff
  | .invertOn | .invertOff | .displayOn | .displayOff | .initSequence | .send _ _ => true

end Sys2Proof
end

