-- ==== Sys2Proof/Decode.lean ====
section
/-! DEFINITION. The decoder of requests, total and rejecting by name, and the encoder, both from the
encoding tables of spec/30_encoding.md. -/

namespace Sys2Proof

/-- One row of the opcode map (R85): the opcode byte's fixed bits, the argument it holds, and the
operation built from an argument. -/
structure OpcodeRow where
  mask : Byte
  pattern : Byte
  build : Byte → Instr
  argument : Byte → Byte

/-- A row of format F8: all bits fixed, no argument (R81). -/
def fixedRow (op : Byte) (i : Instr) : OpcodeRow := ⟨0xFF, op, fun _ => i, fun _ => 0⟩

/-- The parameterised rows, selectors 0 to 4 (R85), with the argument recovered as R86 says. -/
def parameterRows : List OpcodeRow :=
  [⟨0xE0, 0x80, .contrast, fun x => x &&& 0x1F⟩,
   ⟨0xC0, 0x40, .line, fun x => x &&& 0x3F⟩,
   ⟨0xF0, 0xB0, .page, fun x => x &&& 0x0F⟩,
   ⟨0xF0, 0x00, .colLo, fun x => x &&& 0x0F⟩,
   ⟨0xF8, 0x10, .colHi, fun x => (x &&& 0x07) <<< 4⟩]

/-- The fixed rows, selectors 5 to 17 (R85). -/
def fixedRows : List OpcodeRow :=
  [fixedRow 0xE2 .reset, fixedRow 0x2F .powerOn, fixedRow 0x28 .powerOff, fixedRow 0xA1 .hflipOn,
   fixedRow 0xA0 .hflipOff, fixedRow 0xC8 .vflipOn, fixedRow 0xC0 .vflipOff, fixedRow 0xA5 .testOn,
   fixedRow 0xA4 .testOff, fixedRow 0xA7 .invertOn, fixedRow 0xA6 .invertOff, fixedRow 0xAF .displayOn,
   fixedRow 0xAE .displayOff]

/-- The opcode map, indexed by selector (R85, R89). -/
def opcodeMap : List OpcodeRow := parameterRows ++ fixedRows

/-- Whether a byte is an output of a row (R85). -/
def OpcodeRow.matches (r : OpcodeRow) (op : Byte) : Bool := op &&& r.mask == r.pattern

/-- The initialization table INIT[0..9] (10_state.md R33). -/
def initTable : List Byte := [0x2F, 0x9E, 0xA4, 0xA0, 0xC0, 0xA6, 0xAF, 0x00, 0x10, 0xB0]

/-- A position sequence read back: `0000cccc 00010CCC 1011rrrr` (format SEQ3, R85, R86). -/
def decodePosition : List Byte → Option Instr
  | [lo, hi, pg] =>
    if lo &&& 0xF0 = 0x00 ∧ hi &&& 0xF8 = 0x10 ∧ pg &&& 0xF0 = 0xB0 then
      some (.setPosition ((hi &&& 0x07) <<< 4 ||| (lo &&& 0x0F)) (pg &&& 0x0F))
    else none
  | _ => none

/-- A packed block read back by the inverse of the transform (41_bitpack_transmitter.md R153): 2 to 9
bytes, one control bit throughout, an all-zero pad. -/
def decodeBlock (out : List Byte) : Option Instr :=
  let (bits, bytes, pad) := unpack out
  if 2 ≤ out.length ∧ out.length ≤ 9 ∧ (∀ b ∈ bits, b = bits.headD false) ∧ (∀ b ∈ pad, b = false) then
    some (.pack (.ofBit (bits.headD false)) bytes)
  else none

/-- The operation a request names, or why it names none (log 2). -/
def decode : Request → Except Reject Instr
  | .opcode op =>
    match opcodeMap.find? (·.matches op) with
    | some r => .ok (r.build (r.argument op))
    | none => .error (.noRow op)
  | .select sel arg =>
    match opcodeMap[sel.toNat]? with
    | some r => .ok (r.build arg)
    | none => .error (.reservedSelector sel)
  | .sequence ops =>
    if ops = initTable then .ok .initSequence
    else
      match decodePosition ops with
      | some i => .ok i
      | none => .error (.noSequence ops)
  | .position col row => .ok (.setPosition col row)
  | .block out =>
    match decodeBlock out with
    | some i => .ok i
    | none => .error (.noBlock out)
  | .call c bytes => .ok (.send c bytes)

/-- The opcode bytes of a position sequence, field by field (R81 formats P4L, P3H, P4P). -/
def encodePosition (col row : Byte) : List Byte :=
  [0b0000#4 ++ col.extractLsb' 0 4, 0b00010#5 ++ col.extractLsb' 4 3, 0b1011#4 ++ row.extractLsb' 0 4]

/-- The encoding of an operation: the pattern of its row with its argument field filled in (R81, R85), the
byte list of a sequence (R129, R130), the packed block (R83), or the call itself (R93). -/
def encode : Instr → Request
  | .contrast v => .opcode (0b100#3 ++ v.extractLsb' 0 5)
  | .line v => .opcode (0b01#2 ++ v.extractLsb' 0 6)
  | .page v => .opcode (0b1011#4 ++ v.extractLsb' 0 4)
  | .colLo v => .opcode (0b0000#4 ++ v.extractLsb' 0 4)
  | .colHi v => .opcode (0b00010#5 ++ v.extractLsb' 4 3)
  | .reset => .opcode 0b11100010
  | .powerOn => .opcode 0b00101111
  | .powerOff => .opcode 0b00101000
  | .hflipOn => .opcode 0b10100001
  | .hflipOff => .opcode 0b10100000
  | .vflipOn => .opcode 0b11001000
  | .vflipOff => .opcode 0b11000000
  | .testOn => .opcode 0b10100101
  | .testOff => .opcode 0b10100100
  | .invertOn => .opcode 0b10100111
  | .invertOff => .opcode 0b10100110
  | .displayOn => .opcode 0b10101111
  | .displayOff => .opcode 0b10101110
  | .initSequence => .sequence initTable
  | .setPosition col row => .sequence (encodePosition col row)
  | .pack c bytes => .block (pack c bytes)
  | .send c bytes => .call c bytes

/-- The bytes of a table word: bit 0 is the least significant bit of the first byte. -/
def tableBytes (nbits w : Nat) : List Byte :=
  (List.range (nbits / 8)).map fun k => BitVec.ofNat 8 (w / 2 ^ (8 * k))

/-- The request a word of spec/opcode_table.json stands for (log 3): the list of a sequence row, else the
opcode in its first byte, every opcode being exactly one byte (R80). -/
def tableRequest (nbits w : Nat) : Request :=
  match decode (.sequence (tableBytes nbits w)) with
  | .ok _ => .sequence (tableBytes nbits w)
  | .error _ => .opcode (BitVec.ofNat 8 w)

/-- The instruction the decoder reads from a word of spec/opcode_table.json. -/
def decodeTableWord (nbits w : Nat) : Option Instr := (decode (tableRequest nbits w)).toOption

end Sys2Proof
end

