-- ==== Sys2Proof/Machine/Operands.lean ====
section
/-! DEFINITION. The argument fields of the encoder, every operand form there is (spec/30_encoding.md R84).
No argument is sign-extended, scaled or biased. -/

namespace Sys2Proof

/-- `value[4:0]`, the field of `CONTRAST`. -/
def contrastField (value : Byte) : Byte := value &&& 0x1F

/-- `value[5:0]`, the field of `LINE`. -/
def lineField (value : Byte) : Byte := value &&& 0x3F

/-- `value[3:0]`, the field of `PAGE`. -/
def pageField (value : Byte) : Byte := value &&& 0x0F

/-- `value[3:0]`, the field of `COL_LO`. -/
def colLoField (value : Byte) : Byte := value &&& 0x0F

/-- `value[6:4]` moved to bits 2 to 0, the field of `COL_HI`. -/
def colHiField (value : Byte) : Byte := (value >>> 4) &&& 0x07

end Sys2Proof
end

