-- ==== Sys2Proof/Machine/State.lean ====
section
/-! DEFINITION. The machine's state as plain data (spec/10_state.md), what the host and the environment
bring to it, the outcomes of a step, and the state after reset. -/

namespace Sys2Proof.Machine

/-- `phase` (R25). -/
inductive Phase where
  | idle
  | select
  | write
  | deselect
deriving DecidableEq, Repr

/-- The level of the select line: `0`, `1` or `X` (R27). -/
inductive Level where
  | low
  | high
  | unknown
deriving DecidableEq, Repr

/-- The environment's answer to an event (60_exceptions.md R182, 30_encoding.md R90). -/
inductive Answer where
  | ok
  | fail
deriving DecidableEq, Repr

/-- The status of a call (60_exceptions.md R185). -/
inductive Status where
  | ok
  | commFail
deriving DecidableEq, Repr

/-- The event alphabet (00_scope.md R7). -/
inductive Event where
  | csLow
  | busWrite (ws : List Byte)
  | csHigh
deriving DecidableEq, Repr

/-- The trace of a call: its events in order, each with its answer (R7). -/
abbrev Trace := List (Event × Answer)

/-- What an operation, a call, a wait or a block reset delivers; the machine's record of it (log 6). -/
inductive Record where
  /-- The opcode byte of a builder (40_command_encoder.md R110). -/
  | opcode (op : Byte)
  /-- The byte list of a sequence generator (R129, R130). -/
  | opcodes (ops : List Byte)
  /-- The output of `PACK` (41_bitpack_transmitter.md R141). -/
  | packed (out : List Byte)
  /-- The end of a call: its trace and its status (60_exceptions.md R185). -/
  | returned (trace : Trace) (status : Status)
  /-- The host waited at least this many microseconds (70_reset_and_hazards.md R211). -/
  | waited (us : Nat)
  /-- A block reset; of a call in progress, the trace so far and the event left unanswered (R202). -/
  | blockReset (trace : Trace) (issued : Option Event)
deriving DecidableEq, Repr

/-- One act of the host: ask for an operation, or wait (42_driver_sequences.md R173). -/
inductive HostAct where
  | request (r : Request)
  | waitUs (us : Nat)
deriving DecidableEq, Repr

/-- Why the machine stops with a fault. -/
inductive Fault where
  /-- Raised by the WRITE phase when the current block is outside 1 to 8 bytes, which
  41_bitpack_transmitter.md R145 rules out. Safe: no state that meets the invariant raises it (log 15). -/
  | blockOutOfDomain
deriving DecidableEq, Repr

/-- Why an operation has no meaning. -/
inductive Refusal where
  /-- Raised by `exec` for an operation not modelled yet. Safe. -/
  | notModelled (mnemonic : String)
  /-- Raised by `step` when a request names no operation (30_encoding.md R87, R89). Safe (log 24). -/
  | undecodable (why : Reject)
  /-- Raised by `SEND` outside IDLE, where the spec gives it no step (R146, D16). Safe (log 13). -/
  | callInProgress
  /-- Raised by `PACK` on more than 8 bytes, outside its domain (R141). Safe (log 14). -/
  | blockTooLong
deriving DecidableEq, Repr

/-- The machine. -/
structure State where
  /-- R25. -/
  phase : Phase
  /-- `c_lat`, R26. -/
  cLat : Classification
  /-- Block cursor, R24. -/
  idx : Nat
  /-- `n_cur`, R26. -/
  nCur : Nat
  /-- Scratch buffer, R23. -/
  scratch : Vector Byte 9
  /-- `B` of the current call, owned by the host (R31, 20_memory.md R66; log 23). -/
  bytes : List Byte
  /-- Select line, R27. -/
  cs : Level
  /-- The bits the bus has carried (20_memory.md R51, 10_state.md R28; log 6, 7, 8), brought up to date
  when a bus write is answered or abandoned (log 25). -/
  wire : List Bool
  /-- The event issued and not yet answered (60_exceptions.md R196; log 5). -/
  outstanding : Option Event
  /-- The events of the call in progress (00_scope.md R7; log 6). -/
  trace : Trace
  /-- What has been delivered so far, oldest first (log 6). -/
  history : List Record
  /-- The environment's answers to come (60_exceptions.md R182; log 4). -/
  answers : List Answer
  /-- The host's sequences to come, the current one first (log 1). -/
  program : List (List HostAct)
  /-- The block reset input (70_reset_and_hazards.md R200, R202; log 12). -/
  resetLine : Bool
  /-- Free values drawn so far (log 8, 12). -/
  draws : Nat
deriving DecidableEq, Repr

/-- What the host does when the block is in IDLE. -/
inductive HostMove where
  /-- It asks for nothing; the state after its move. -/
  | quiet (s : State)
  /-- It issues a request; the state with the request taken from the program. -/
  | issue (r : Request) (s : State)
deriving DecidableEq, Repr

/-- The state after block reset, before any call (10_state.md R34, 70_reset_and_hazards.md R200): `phase`,
`idx` and `cs` as stated there. DESIGN CHOICE (log 10): `cLat`, `nCur`, `scratch`, which it leaves
unspecified. DESIGN CHOICE (log 11): the fields that are not the block's. -/
def State.reset : State where
  phase := .idle
  cLat := .command
  idx := 0
  nCur := 1
  scratch := #v[0, 0, 0, 0, 0, 0, 0, 0, 0]
  bytes := []
  cs := .high
  wire := []
  outstanding := none
  trace := []
  history := []
  answers := []
  program := []
  resetLine := false
  draws := 0

end Sys2Proof.Machine
end

