-- ==== Sys2Proof/Machine/Ops.lean ====
section
/-! DEFINITION. The shared operations over the state: delivering a result, the scratch buffer, emitting an
event, ending a call, the communication failure, the block reset, and the host's next move. -/

namespace Sys2Proof.Machine

/-- The status code (30_encoding.md R90): `OK` = 0, `COMM_FAIL` = 1. -/
def Status.code : Status → BitVec 1
  | .ok => 0
  | .commFail => 1

/-- Deliver a result: nothing but the record changes. -/
def State.record (s : State) (r : Record) : State := { s with history := s.history ++ [r] }

/-- Write `out` to the scratch cells from 0 on; the cells beyond keep their content (10_state.md R23,
41_bitpack_transmitter.md R141; log 16). -/
def State.writeScratch (s : State) (out : List Byte) : State :=
  { s with scratch := Vector.ofFn fun k : Fin 9 => out.getD k s.scratch[k] }

/-- The first `n` scratch cells, the ones a bus write sends (R148). -/
def State.scratchCells (s : State) (n : Nat) : List Byte := s.scratch.toList.take n

/-- `n_cur = min(8, len(B) - idx)` (10_state.md R26). -/
def blockSize (len idx : Nat) : Nat := min Config.blockMax (len - idx)

/-- The current block `B[idx .. idx + n_cur)` (R148). -/
def State.block (s : State) : List Byte := (s.bytes.drop s.idx).take s.nCur

/-- Emit an event. With an answer at hand it is drawn, and the event enters the trace with it; without one
the event is outstanding and the block waits (60_exceptions.md R182, R196; log 4, 5). -/
def State.emit (s : State) (e : Event) : Option Answer × State :=
  match s.answers with
  | [] => (none, { s with outstanding := some e })
  | a :: rest => (some a, { s with answers := rest, outstanding := none, trace := s.trace ++ [(e, a)] })

/-- End the call with `st`: back to IDLE, the status delivered once (60_exceptions.md R185). -/
def State.endCall (s : State) (st : Status) : State :=
  { s with phase := .idle, outstanding := none, trace := [], history := s.history ++ [.returned s.trace st] }

/-- The host's driver gives up the rest of its sequence (42_driver_sequences.md R177; log 17). -/
def State.dropSequence (s : State) : State := { s with program := s.program.tail }

/-- TAKING THE EXCEPTION: `raise CommFail` (60_exceptions.md R184). The call ends with `COMM_FAIL`, no
further event is issued, nothing is saved, the select line is not repaired. There is no return from it
(R189): the block is in IDLE. The host then drops the rest of its sequence (42_driver_sequences.md R177). -/
def State.raiseCommFail (s : State) : State := (s.endCall .commFail).dropSequence

/-- The bus carries the first `n` bits of `ws`, byte 0 and bit 7 first (20_memory.md R51, R55; log 7). -/
def State.carry (s : State) (ws : List Byte) (n : Nat) : State :=
  { s with wire := s.wire ++ (bytesBits ws).take n }

/-- The bus carries all of `ws`. -/
def State.carryAll (s : State) (ws : List Byte) : State := s.carry ws (8 * ws.length)

/-- The bus carries an unknown part of `ws`, counted from its first bit: a free value (10_state.md R28,
93_implementation_defined.md U2; log 8). -/
def State.carrySome (s : State) (ws : List Byte) : State :=
  { s.carry ws (Config.cutOfWrite s.draws) with draws := s.draws + 1 }

/-- Whether a frame may be open on the wire: between a `CsLow` issued and the answer to the matching
`CsHigh` (70_reset_and_hazards.md R202). -/
def State.frameMayBeOpen (s : State) : Bool :=
  match s.phase with
  | .idle => false
  | .select => s.outstanding.isSome
  | .write | .deselect => true

/-- What the bus carries of the event a block reset leaves unanswered (R202). -/
def State.carryOutstanding (s : State) : State :=
  match s.outstanding with
  | some (.busWrite ws) => s.carrySome ws
  | some .csLow | some .csHigh | none => s

/-- The host, whose call got no status, gives up the sequence the call belonged to (log 12). -/
def State.abandonCall (s : State) : State :=
  match s.phase with
  | .idle => s
  | .select | .write | .deselect => s.dropSequence

/-- The block reset (70_reset_and_hazards.md R200, R202): IDLE, `idx` 0, `c_lat`, `n_cur` and `scratch` free
values, the line high, or `X` where a frame may be open; no event, no status. -/
def State.blockReset (s : State) : State :=
  let t := s.carryOutstanding.abandonCall
  { t with
    phase := .idle
    cLat := Config.classAfterReset t.draws
    idx := 0
    nCur := (Config.sizeAfterReset t.draws).val + 1
    scratch := Config.scratchAfterReset t.draws
    cs := if s.frameMayBeOpen then .unknown else .high
    outstanding := none
    trace := []
    history := t.history ++ [.blockReset s.trace s.outstanding]
    resetLine := false
    draws := t.draws + 1 }

/-- The host's next move in IDLE: nothing to do, the next sequence, a wait, or a request
(70_reset_and_hazards.md R201, R215; log 1, 17). -/
def State.hostMove (s : State) : HostMove :=
  match s.program with
  | [] => .quiet s
  | [] :: later => .quiet { s with program := later }
  | (.waitUs us :: acts) :: later => .quiet ({ s with program := acts :: later }.record (.waited us))
  | (.request r :: acts) :: later => .issue r { s with program := acts :: later }

/-- Make `r` the host's next request, with the block in IDLE and no reset asserted (log 1). -/
def State.place (s : State) (r : Request) : State :=
  { s with phase := .idle, outstanding := none, resetLine := false, program := [.request r] :: s.program }

end Sys2Proof.Machine
end

