-- ==== Sys2Proof/Machine/CommandEncoder.lean ====
section
/-! DEFINITION. `CENC`, the command encoder: the 18 opcode builders and the two sequence generators
(spec/40_command_encoder.md). Every operation is combinational: it delivers its result and changes nothing
else (R110, R21). -/

namespace Sys2Proof

/-- `CONTRAST` (R111). -/
def opContrast (value : Byte) : Byte := 0x80 ||| contrastField value

/-- `LINE` (R112). -/
def opLine (value : Byte) : Byte := 0x40 ||| lineField value

/-- `PAGE` (R113). -/
def opPage (value : Byte) : Byte := 0xB0 ||| pageField value

/-- `COL_LO` (R114). -/
def opColLo (value : Byte) : Byte := colLoField value

/-- `COL_HI` (R115). -/
def opColHi (value : Byte) : Byte := 0x10 ||| colHiField value

/-- `RESET` (R116). -/
def opReset : Byte := 0xE2

/-- `POWER_ON` (R117). -/
def opPowerOn : Byte := 0x2F

/-- `POWER_OFF` (R118). -/
def opPowerOff : Byte := 0x28

/-- `HFLIP_ON` (R119). -/
def opHflipOn : Byte := 0xA1

/-- `HFLIP_OFF` (R120). -/
def opHflipOff : Byte := 0xA0

/-- `VFLIP_ON` (R121). -/
def opVflipOn : Byte := 0xC8

/-- `VFLIP_OFF` (R122). -/
def opVflipOff : Byte := 0xC0

/-- `TEST_ON` (R123). -/
def opTestOn : Byte := 0xA5

/-- `TEST_OFF` (R124). -/
def opTestOff : Byte := 0xA4

/-- `INVERT_ON` (R125). -/
def opInvertOn : Byte := 0xA7

/-- `INVERT_OFF` (R126). -/
def opInvertOff : Byte := 0xA6

/-- `DISPLAY_ON` (R127). -/
def opDisplayOn : Byte := 0xAF

/-- `DISPLAY_OFF` (R128). -/
def opDisplayOff : Byte := 0xAE

/-- `init_sequence()`, the fixed ordered list by operation names (R129). -/
def opsInitSequence : List Byte :=
  [opPowerOn, opContrast 30, opTestOff, opHflipOff, opVflipOff, opInvertOff, opDisplayOn, opColLo 0, opColHi 0,
    opPage 0]

/-- `set_position(column, row)` (R130). -/
def opsSetPosition (column row : Byte) : List Byte := [opColLo column, opColHi column, opPage row]

namespace Machine

/-- Deliver one opcode byte (R110). -/
def deliverOpcode (op : Byte) (s : State) : Host.Outcome State Fault Refusal := .next (s.record (.opcode op))

/-- Deliver an opcode list (R129, R130). -/
def deliverOpcodes (ops : List Byte) (s : State) : Host.Outcome State Fault Refusal :=
  .next (s.record (.opcodes ops))

/-- `CONTRAST v` (R111). -/
def execContrast (v : Byte) (s : State) : Host.Outcome State Fault Refusal := deliverOpcode (opContrast v) s

/-- `LINE v` (R112). -/
def execLine (v : Byte) (s : State) : Host.Outcome State Fault Refusal := deliverOpcode (opLine v) s

/-- `PAGE v` (R113). -/
def execPage (v : Byte) (s : State) : Host.Outcome State Fault Refusal := deliverOpcode (opPage v) s

/-- `COL_LO v` (R114). -/
def execColLo (v : Byte) (s : State) : Host.Outcome State Fault Refusal := deliverOpcode (opColLo v) s

/-- `COL_HI v` (R115). -/
def execColHi (v : Byte) (s : State) : Host.Outcome State Fault Refusal := deliverOpcode (opColHi v) s

/-- `RESET` (R116). -/
def execReset (s : State) : Host.Outcome State Fault Refusal := deliverOpcode opReset s

/-- `POWER_ON` (R117). -/
def execPowerOn (s : State) : Host.Outcome State Fault Refusal := deliverOpcode opPowerOn s

/-- `POWER_OFF` (R118). -/
def execPowerOff (s : State) : Host.Outcome State Fault Refusal := deliverOpcode opPowerOff s

/-- `HFLIP_ON` (R119). -/
def execHflipOn (s : State) : Host.Outcome State Fault Refusal := deliverOpcode opHflipOn s

/-- `HFLIP_OFF` (R120). -/
def execHflipOff (s : State) : Host.Outcome State Fault Refusal := deliverOpcode opHflipOff s

/-- `VFLIP_ON` (R121). -/
def execVflipOn (s : State) : Host.Outcome State Fault Refusal := deliverOpcode opVflipOn s

/-- `VFLIP_OFF` (R122). -/
def execVflipOff (s : State) : Host.Outcome State Fault Refusal := deliverOpcode opVflipOff s

/-- `TEST_ON` (R123). -/
def execTestOn (s : State) : Host.Outcome State Fault Refusal := deliverOpcode opTestOn s

/-- `TEST_OFF` (R124). -/
def execTestOff (s : State) : Host.Outcome State Fault Refusal := deliverOpcode opTestOff s

/-- `INVERT_ON` (R125). -/
def execInvertOn (s : State) : Host.Outcome State Fault Refusal := deliverOpcode opInvertOn s

/-- `INVERT_OFF` (R126). -/
def execInvertOff (s : State) : Host.Outcome State Fault Refusal := deliverOpcode opInvertOff s

/-- `DISPLAY_ON` (R127). -/
def execDisplayOn (s : State) : Host.Outcome State Fault Refusal := deliverOpcode opDisplayOn s

/-- `DISPLAY_OFF` (R128). -/
def execDisplayOff (s : State) : Host.Outcome State Fault Refusal := deliverOpcode opDisplayOff s

/-- `INIT_SEQUENCE` (R129). -/
def execInitSequence (s : State) : Host.Outcome State Fault Refusal := deliverOpcodes opsInitSequence s

/-- `SET_POSITION col, row` (R130). -/
def execSetPosition (col row : Byte) (s : State) : Host.Outcome State Fault Refusal :=
  deliverOpcodes (opsSetPosition col row) s

end Machine
end Sys2Proof
end

