-- ==== Sys2Proof/Machine/Transmitter.lean ====
section
/-! DEFINITION. `PACK`, the bit-packing transmitter: the packing operation, the acceptance of a call, the
steps of a call in progress (spec/41_bitpack_transmitter.md R146 to R150), and the call as a whole (R144). -/

namespace Sys2Proof.Machine

/-- `PACK(c, K)` (R141): deliver the packed block, written to `scratch[0..n]`. More than 8 bytes are outside
its domain; no bytes give no output and write nothing (R143; log 14). -/
def execPack (c : Classification) (bytes : List Byte) (s : State) : Host.Outcome State Fault Refusal :=
  if bytes.length ≤ Config.blockMax then
    .next ((s.writeScratch (pack c bytes)).record (.packed (pack c bytes)))
  else .refused .blockTooLong

/-- Accept a call (R146): an empty list ends it at once with `OK` and no event (R152). -/
def State.accept (s : State) (c : Classification) (bytes : List Byte) : State :=
  let t := { s with cLat := c, idx := 0, bytes := bytes, outstanding := none, trace := [] }
  if bytes = [] then t.endCall .ok
  else { t with nCur := blockSize bytes.length 0, phase := .select }

/-- `SEND(c, B)` (R144, R146): accepted in IDLE; elsewhere the host has no such move (D16; log 13). -/
def execSend (c : Classification) (bytes : List Byte) (s : State) : Host.Outcome State Fault Refusal :=
  if s.phase = .idle then .next (s.accept c bytes) else .refused .callInProgress

/-- Select (R147). -/
def stepSelect (s : State) : Host.Outcome State Fault Refusal :=
  match s.emit .csLow with
  | (none, t) => .next t
  | (some .ok, t) => .next { t with cs := .low, phase := .write }
  | (some .fail, t) => .next { t with cs := .unknown }.raiseCommFail

/-- Write (R148): pack the current block into the scratch buffer and send the cells it filled.
DESIGN CHOICE (log 25): while the write is unanswered none of its bits are in `wire`; the spec leaves open how
much of it is out (60_exceptions.md R196). -/
def stepWrite (s : State) : Host.Outcome State Fault Refusal :=
  if 1 ≤ s.block.length ∧ s.block.length ≤ Config.blockMax then
    let p := s.writeScratch (pack s.cLat s.block)
    let ws := p.scratchCells (s.block.length + 1)
    match p.emit (.busWrite ws) with
    | (none, t) => .next t
    | (some .ok, t) => .next { t.carryAll ws with phase := .deselect }
    | (some .fail, t) => .next (t.carrySome ws).raiseCommFail
  else .fault .blockOutOfDomain

/-- Advance (R150): the next block, or the end of the call with `OK`. -/
def State.advance (s : State) : State :=
  let next := s.idx + s.nCur
  if next < s.bytes.length then
    { s with idx := next, nCur := blockSize s.bytes.length next, phase := .select }
  else { s with idx := next }.endCall .ok

/-- Deselect (R149), then advance. -/
def stepDeselect (s : State) : Host.Outcome State Fault Refusal :=
  match s.emit .csHigh with
  | (none, t) => .next t
  | (some .ok, t) => .next { t with cs := .high }.advance
  | (some .fail, t) => .next { t with cs := .unknown }.raiseCommFail

/-- The greedy partition of a call (R145), with fuel. -/
def cutBlocks : Nat → List Byte → List (List Byte)
  | 0, _ => []
  | _ + 1, [] => []
  | fuel + 1, b :: bs => (b :: bs).take Config.blockMax :: cutBlocks fuel ((b :: bs).drop Config.blockMax)

/-- The blocks of a call: `B[0..8)`, `B[8..16)`, … (R145). -/
def blocks (bytes : List Byte) : List (List Byte) := cutBlocks bytes.length bytes

/-- The events of one block (R144). -/
def blockEvents (c : Classification) (K : List Byte) : List Event := [.csLow, .busWrite (pack c K), .csHigh]

/-- The events of a call whose every event is answered `ok` (R144, R151). -/
def callEvents (c : Classification) (bytes : List Byte) : List Event := (blocks bytes).flatMap (blockEvents c)

/-- What a whole call comes to: its trace, its status (none while the environment is silent), the answers
left and the select line. -/
structure CallResult where
  trace : Trace
  status : Option Status
  answers : List Answer
  cs : Level
deriving DecidableEq, Repr

/-- Put events answered `ok` in front of a result's trace. -/
def CallResult.after (r : CallResult) (done : List Event) : CallResult :=
  { r with trace := done.map (·, .ok) ++ r.trace }

/-- The loop of R144 over the blocks still to send, under a list of answers: the first `fail` ends the call
(60_exceptions.md R187), and the line is as 60_exceptions.md R186 says. -/
def sendBlocks (c : Classification) : List (List Byte) → List Answer → Level → CallResult
  | [], ans, cs => ⟨[], some .ok, ans, cs⟩
  | _ :: _, [], cs => ⟨[], none, [], cs⟩
  | _ :: _, .fail :: ans, _ => ⟨[(.csLow, .fail)], some .commFail, ans, .unknown⟩
  | _ :: _, [.ok], _ => ⟨[(.csLow, .ok)], none, [], .low⟩
  | K :: _, .ok :: .fail :: ans, _ =>
    ⟨[(.csLow, .ok), (.busWrite (pack c K), .fail)], some .commFail, ans, .low⟩
  | K :: _, [.ok, .ok], _ => ⟨[(.csLow, .ok), (.busWrite (pack c K), .ok)], none, [], .low⟩
  | K :: _, .ok :: .ok :: .fail :: ans, _ =>
    ⟨[(.csLow, .ok), (.busWrite (pack c K), .ok), (.csHigh, .fail)], some .commFail, ans, .unknown⟩
  | K :: rest, .ok :: .ok :: .ok :: ans, _ => (sendBlocks c rest ans .high).after (blockEvents c K)

/-- `SEND(c, B)` as a whole (R144), from the answers the environment gives and the line before the call. -/
def sendWhole (c : Classification) (bytes : List Byte) (answers : List Answer) (cs : Level) : CallResult :=
  sendBlocks c (blocks bytes) answers cs

end Sys2Proof.Machine
end

