-- ==== Sys2Proof/Machine/Dispatch.lean ====
section
/-! DEFINITION. One arm per operation, each a direct call of its meaning. -/

namespace Sys2Proof.Machine

def exec (i : Instr) (s : State) : Host.Outcome State Fault Refusal :=
  match i with
  | .contrast v => Sys2Proof.Machine.execContrast v s
  | .line v => Sys2Proof.Machine.execLine v s
  | .page v => Sys2Proof.Machine.execPage v s
  | .colLo v => Sys2Proof.Machine.execColLo v s
  | .colHi v => Sys2Proof.Machine.execColHi v s
  | .reset => Sys2Proof.Machine.execReset s
  | .powerOn => Sys2Proof.Machine.execPowerOn s
  | .powerOff => Sys2Proof.Machine.execPowerOff s
  | .hflipOn => Sys2Proof.Machine.execHflipOn s
  | .hflipOff => Sys2Proof.Machine.execHflipOff s
  | .vflipOn => Sys2Proof.Machine.execVflipOn s
  | .vflipOff => Sys2Proof.Machine.execVflipOff s
  | .testOn => Sys2Proof.Machine.execTestOn s
  | .testOff => Sys2Proof.Machine.execTestOff s
  | .invertOn => Sys2Proof.Machine.execInvertOn s
  | .invertOff => Sys2Proof.Machine.execInvertOff s
  | .displayOn => Sys2Proof.Machine.execDisplayOn s
  | .displayOff => Sys2Proof.Machine.execDisplayOff s
  | .initSequence => Sys2Proof.Machine.execInitSequence s
  | .setPosition col row => Sys2Proof.Machine.execSetPosition col row s
  | .pack c bytes => Sys2Proof.Machine.execPack c bytes s
  | .send c bytes => Sys2Proof.Machine.execSend c bytes s

end Sys2Proof.Machine
end

