-- ==== Sys2Proof/Machine/Step.lean ====
section
/-! DEFINITION. One step of the machine: a block reset, a move of the host in IDLE, or the next step of the
call in progress. -/

namespace Sys2Proof.Machine

/-- A step of the host in IDLE: a request is decoded and run, or refused by name. -/
def stepHost (s : State) : Host.Outcome State Fault Refusal :=
  match s.hostMove with
  | .quiet t => .next t
  | .issue r t =>
    match decode r with
    | .ok i => exec i t
    | .error why => .refused (.undecodable why)

/-- One step (41_bitpack_transmitter.md R146 to R150; 70_reset_and_hazards.md R200, R202, R215). -/
def step (s : State) : Host.Outcome State Fault Refusal :=
  if s.resetLine then .next s.blockReset
  else
    match s.phase with
    | .idle => stepHost s
    | .select => stepSelect s
    | .write => stepWrite s
    | .deselect => stepDeselect s

/-- `s` with a word of spec/opcode_table.json as the host's next request (log 1, 3). -/
def State.withFetchWord (s : State) (nbits w : Nat) : State := s.place (tableRequest nbits w)

end Sys2Proof.Machine
end

