-- ==== Sys2Proof/Machine/FrameBuffer.lean ====
section
/-! DEFINITION. The host's frame buffer: its layout (spec/20_memory.md R67) and accessors (R68). It belongs
to the caller and is no part of the block's state (R20, D21; log 18). -/

namespace Sys2Proof

/-- The lines of a frame buffer, each a list of vertical 8-pixel bands (R67). -/
abbrev FrameBuffer := List (List Byte)

/-- A frame buffer of `h` lines of `w` bytes, all zero (R67). -/
def frameBufferNew (w h : Nat) : FrameBuffer := List.replicate h (List.replicate w 0)

/-- The reference configuration, 9 lines of 96 bytes (R67). -/
def frameBufferReference : FrameBuffer := frameBufferNew Config.columns Config.lines

/-- `get_line`: nothing outside the valid range (R68). -/
def getLine (fb : FrameBuffer) (y : Nat) : Option (List Byte) := fb[y]?

/-- `clear_line`: fill one line; outside the valid range nothing happens (R68). -/
def clearLine (fb : FrameBuffer) (y : Nat) (value : Byte) : FrameBuffer := fb.modify y (·.map fun _ => value)

/-- `clear_buffer`: fill every line (R68). -/
def clearBuffer (fb : FrameBuffer) (value : Byte) : FrameBuffer := fb.map (·.map fun _ => value)

/-- The pixel at `(x, y)`: line `y/8`, byte `x`, bit `y%8` (R67). -/
def getPixel (fb : FrameBuffer) (x y : Nat) : Option Bool :=
  (fb[y / 8]?.bind (·[x]?)).map (·.getLsbD (y % 8))

/-- Set a pixel: clear its bit and OR in the new value; off the canvas nothing happens (R68). -/
def setPixel (fb : FrameBuffer) (x y : Nat) (on : Bool) : FrameBuffer :=
  fb.modify (y / 8) (·.modify x fun b =>
    (b &&& ~~~(1#8 <<< (y % 8))) ||| ((BitVec.ofBool on).setWidth 8 <<< (y % 8)))

end Sys2Proof
end

