-- ==== Sys2Proof/Machine/Driver.lean ====
section
/-! DEFINITION. The display driver's four operations as host sequences over the block
(spec/42_driver_sequences.md, 30_encoding.md R92). Each is a list of acts; the first `COMM_FAIL` ends it
(R177, `State.raiseCommFail`). -/

namespace Sys2Proof.Machine

/-- `send_commands(opcodes)` (R171). -/
def sendCommands (opcodes : List Byte) : List HostAct := [.request (.call .command opcodes)]

/-- `send_data(bytes)` (R172). -/
def sendData (bytes : List Byte) : List HostAct := [.request (.call .data bytes)]

/-- `initialize(delay)` (R173): the reset byte, the settle interval, the initialization sequence. -/
def initializePanel : List HostAct :=
  sendCommands [opReset] ++ [.waitUs Config.settleUs] ++ sendCommands opsInitSequence

/-- `send_buffer(buffer)` (R174): the origin, then every line in order. -/
def sendBuffer (buffer : FrameBuffer) : List HostAct :=
  sendCommands (opsSetPosition 0 0) ++ buffer.flatMap sendData

end Sys2Proof.Machine
end

