-- ==== Sys2Proof/Machine/Ports.lean ====
section
/-! DEFINITION. The encoder's combinational ports in the signal binding of spec/92_eei_decisions.md D3,
which is informative: output as a function of the inputs, no state (10_state.md R21). -/

namespace Sys2Proof

/-- The output byte of an opcode builder (40_command_encoder.md R110); none for the other operations. -/
def builderOutput : Instr → Option Byte
  | .contrast v => some (opContrast v)
  | .line v => some (opLine v)
  | .page v => some (opPage v)
  | .colLo v => some (opColLo v)
  | .colHi v => some (opColHi v)
  | .reset => some opReset
  | .powerOn => some opPowerOn
  | .powerOff => some opPowerOff
  | .hflipOn => some opHflipOn
  | .hflipOff => some opHflipOff
  | .vflipOn => some opVflipOn
  | .vflipOff => some opVflipOff
  | .testOn => some opTestOn
  | .testOff => some opTestOff
  | .invertOn => some opInvertOn
  | .invertOff => some opInvertOff
  | .displayOn => some opDisplayOn
  | .displayOff => some opDisplayOff
  | .initSequence | .setPosition _ _ | .pack _ _ | .send _ _ => none

/-- `enc_op = CENC(enc_sel, enc_arg)`; no output for a reserved selector (30_encoding.md R89, U5). -/
def encPort (sel : BitVec 5) (arg : Byte) : Option Byte := (decode (.select sel arg)).toOption.bind builderOutput

/-- `pos_seq`: the position sequence, the first byte sent in bits 23 to 16. -/
def posPort (col row : Byte) : BitVec 24 := opColLo col ++ opColHi col ++ opPage row

/-- `init_op = INIT[init_idx]`; no output for 10 to 15 (U5). -/
def initPort (idx : BitVec 4) : Option Byte := opsInitSequence[idx.toNat]?

end Sys2Proof
end

