-- ==== Sys2Proof/Safety.lean ====
section
/-! DEFINITION. The invariants of the machine (spec/10_state.md R24 to R27,
41_bitpack_transmitter.md R145, R151). -/

namespace Sys2Proof.Machine

/-- Events, each answered `ok`. -/
def allOk (es : List Event) : Trace := es.map (·, .ok)

/-- The bus writes among events, in order. -/
def busWrites (es : List Event) : List (List Byte) :=
  es.filterMap fun e => match e with
    | .busWrite ws => some ws
    | .csLow | .csHigh => none

/-- How many events of the current block have been answered `ok` in a phase (R25). -/
def Phase.eventsDone : Phase → Nat
  | .idle | .select => 0
  | .write => 1
  | .deselect => 2

/-- The event a call in progress issues next (R146 to R150). -/
def State.nextEvent (s : State) : Option Event :=
  match s.phase with
  | .idle => none
  | .select => some .csLow
  | .write => some (.busWrite (pack s.cLat s.block))
  | .deselect => some .csHigh

/-- A call in progress: the cursor stands at a block start inside the call, the block is the greedy one
(R24, R26, R145), and the trace is the beginning of the frames of the call, every event answered `ok`
(R151). -/
def State.inCall (s : State) : Prop :=
  s.idx < s.bytes.length ∧ s.idx % 8 = 0 ∧ s.nCur = blockSize s.bytes.length s.idx ∧
  s.trace = allOk ((callEvents s.cLat s.bytes).take (3 * (s.idx / 8) + s.phase.eventsDone))

/-- The select line of a call in progress: low inside a frame, high between two frames (R27, R151). -/
def State.lineMatches (s : State) : Prop :=
  ((s.phase = .write ∨ s.phase = .deselect) → s.cs = .low) ∧
  (s.phase = .select → 0 < s.idx → s.cs = .high)

/-- The invariant of every step. Nothing is outstanding and no trace is open in IDLE; an outstanding event
is the one the phase issues; `n_cur` is 1 to 8 (R26). -/
def State.inv (s : State) : Prop :=
  1 ≤ s.nCur ∧ s.nCur ≤ 8 ∧
  (s.phase = .idle → s.trace = []) ∧
  (∀ e, s.outstanding = some e → s.nextEvent = some e) ∧
  (s.phase ≠ .idle → s.inCall) ∧ s.lineMatches

/-- An operation of `CENC`: a builder or a sequence generator (00_scope.md R1, R8). -/
def isEncoderOp : Instr → Bool
  | .pack _ _ | .send _ _ => false
  | .contrast _ | .line _ | .page _ | .colLo _ | .colHi _ | .reset | .powerOn | .powerOff | .hflipOn
  | .hflipOff | .vflipOn | .vflipOff | .testOn | .testOff | .invertOn | .invertOff | .displayOn | .displayOff
  | .initSequence | .setPosition _ _ => true

/-- `n` steps of the machine, as far as it goes on. -/
def runSteps : Nat → State → Option State
  | 0, s => some s
  | n + 1, s =>
    match step s with
    | .next t => runSteps n t
    | .fault _ => none
    | .refused _ => none

end Sys2Proof.Machine
end

