-- ==== Sys2Proof/Certificates/Slice0/Obligations.lean ====
section
/-! DEFINITION. The statements for the provers. Each docstring names the rule of spec/ it formalises, or the
sections and the log entries it rests on. -/

open Sys2Proof Sys2Proof.Machine

/-! ## The command encoder -/

/-- R111, but for its selector value (decision D5, see `SelectorMap`). -/
def Obligations.ContrastBuildsItsOpcode : Prop :=
  (∀ (v : Byte) (s : State),
    exec (.contrast v) s = .next { s with history := s.history ++ [.opcode (0x80 ||| (v &&& 0x1F))] } ∧
    0x80 ||| (v &&& 0x1F) = 0b100#3 ++ v.extractLsb' 0 5) ∧
  ∀ (s : State) (p : Byte × Byte),
    p ∈ [(0, 0x80), (31, 0x9F), (32, 0x80), (40, 0x88), (255, 0x9F), (30, 0x9E)] →
    exec (.contrast p.1) s = .next { s with history := s.history ++ [.opcode p.2] }

/-- R112, but for its selector value (decision D5, see `SelectorMap`). -/
def Obligations.LineBuildsItsOpcode : Prop :=
  (∀ (v : Byte) (s : State),
    exec (.line v) s = .next { s with history := s.history ++ [.opcode (0x40 ||| (v &&& 0x3F))] } ∧
    0x40 ||| (v &&& 0x3F) = 0b01#2 ++ v.extractLsb' 0 6 ∧
    (0x40 ||| (v &&& 0x3F)) ∉ opsInitSequence ∧
    ∀ col row : Byte, (0x40 ||| (v &&& 0x3F)) ∉ opsSetPosition col row) ∧
  ∀ (s : State) (p : Byte × Byte),
    p ∈ [(0, 0x40), (63, 0x7F), (64, 0x40), (255, 0x7F), (5, 0x45)] →
    exec (.line p.1) s = .next { s with history := s.history ++ [.opcode p.2] }

/-- R113, but for its selector value (decision D5, see `SelectorMap`). -/
def Obligations.PageBuildsItsOpcode : Prop :=
  (∀ (v : Byte) (s : State),
    exec (.page v) s = .next { s with history := s.history ++ [.opcode (0xB0 ||| (v &&& 0x0F))] } ∧
    0xB0 ||| (v &&& 0x0F) = 0b1011#4 ++ v.extractLsb' 0 4) ∧
  ∀ (s : State) (p : Byte × Byte),
    p ∈ [(0, 0xB0), (8, 0xB8), (9, 0xB9), (15, 0xBF), (16, 0xB0), (255, 0xBF), (7, 0xB7)] →
    exec (.page p.1) s = .next { s with history := s.history ++ [.opcode p.2] }

/-- R114, but for its selector value (decision D5, see `SelectorMap`). -/
def Obligations.ColLoBuildsItsOpcode : Prop :=
  (∀ (v : Byte) (s : State),
    exec (.colLo v) s = .next { s with history := s.history ++ [.opcode (v &&& 0x0F)] } ∧
    v &&& 0x0F = 0b0000#4 ++ v.extractLsb' 0 4) ∧
  ∀ (s : State) (p : Byte × Byte),
    p ∈ [(0, 0x00), (15, 0x0F), (16, 0x00), (95, 0x0F), (255, 0x0F), (13, 0x0D)] →
    exec (.colLo p.1) s = .next { s with history := s.history ++ [.opcode p.2] }

/-- R115, but for its selector value (decision D5, see `SelectorMap`). -/
def Obligations.ColHiBuildsItsOpcode : Prop :=
  (∀ (v : Byte) (s : State),
    exec (.colHi v) s = .next { s with history := s.history ++ [.opcode (0x10 ||| ((v >>> 4) &&& 0x07))] } ∧
    (0x10 : Byte) ||| ((v >>> 4) &&& 0x07) = 0b00010#5 ++ v.extractLsb' 4 3 ∧
    exec (.colHi (v ||| 0x80)) s = exec (.colHi v) s) ∧
  ∀ (s : State) (p : Byte × Byte),
    p ∈ [(0, 0x10), (15, 0x10), (16, 0x11), (95, 0x15), (96, 0x16), (127, 0x17), (128, 0x10), (255, 0x17),
      (13, 0x10)] →
    exec (.colHi p.1) s = .next { s with history := s.history ++ [.opcode p.2] }

/-- R117 to R128, but for their selector values (decision D5, see `SelectorMap`). -/
def Obligations.FixedOpcodesBuildTheirBytes : Prop :=
  (∀ (s : State) (p : Instr × Byte),
    p ∈ [(.powerOn, 0x2F), (.powerOff, 0x28), (.hflipOn, 0xA1), (.hflipOff, 0xA0), (.vflipOn, 0xC8),
      (.vflipOff, 0xC0), (.testOn, 0xA5), (.testOff, 0xA4), (.invertOn, 0xA7), (.invertOff, 0xA6),
      (.displayOn, 0xAF), (.displayOff, 0xAE)] →
    exec p.1 s = .next { s with history := s.history ++ [.opcode p.2] }) ∧
  opsInitSequence[0]? = some 0x2F ∧ opsInitSequence[2]? = some 0xA4 ∧ opsInitSequence[3]? = some 0xA0 ∧
  opsInitSequence[4]? = some 0xC0 ∧ opsInitSequence[5]? = some 0xA6 ∧ opsInitSequence[6]? = some 0xAF ∧
  ∀ op ∈ [(0x28 : Byte), 0xAE], op ∉ opsInitSequence ∧ ∀ col row : Byte, op ∉ opsSetPosition col row

/-- R116: building the panel's reset byte, or sending it as a command, is no block reset (decision D22 of
the spec): the call is walked like any other and no free value is drawn. -/
def Obligations.ResetByteIsAnOrdinaryByte : Prop :=
  (∀ s : State, exec .reset s = .next { s with history := s.history ++ [.opcode 0xE2] }) ∧
  ∀ (s : State) (rest : List Answer),
    s.phase = .idle → s.resetLine = false → s.answers = .ok :: .ok :: .ok :: rest →
    ∃ t u, exec (.send .command [0xE2]) s = .next t ∧ runSteps 3 t = some u ∧ u.phase = .idle ∧
      u.history = s.history ++ [.returned (allOk [.csLow, .busWrite [0x71, 0x00], .csHigh]) .ok] ∧
      u.draws = s.draws

/-- R129. -/
def Obligations.InitSequenceIsTheFixedList : Prop :=
  (∀ s : State, exec .initSequence s = .next
    { s with history := s.history ++
        [.opcodes [0x2F, 0x9E, 0xA4, 0xA0, 0xC0, 0xA6, 0xAF, 0x00, 0x10, 0xB0]] }) ∧
  opsInitSequence = [opPowerOn, opContrast 30, opTestOff, opHflipOff, opVflipOff, opInvertOff, opDisplayOn,
    opColLo 0, opColHi 0, opPage 0] ∧
  opsInitSequence.length = 10 ∧ opsInitSequence.drop 7 = opsSetPosition 0 0 ∧ opReset ∉ opsInitSequence ∧
  opsInitSequence[1]? = some 0x9E

/-- R130. -/
def Obligations.SetPositionIsThreeOpcodes : Prop :=
  (∀ (col row : Byte) (s : State), exec (.setPosition col row) s = .next
    { s with history := s.history ++
        [.opcodes [col &&& 0x0F, 0x10 ||| ((col >>> 4) &&& 0x07), 0xB0 ||| (row &&& 0x0F)]] }) ∧
  ∀ (s : State) (p : Byte × Byte × List Byte),
    p ∈ [(0, 0, [0x00, 0x10, 0xB0]), (95, 8, [0x0F, 0x15, 0xB8]), (255, 255, [0x0F, 0x17, 0xBF]),
      (128, 16, [0x00, 0x10, 0xB0]), (13, 7, [0x0D, 0x10, 0xB7])] →
    exec (.setPosition p.1 p.2.1) s = .next { s with history := s.history ++ [.opcodes p.2.2] }

/-- R88, with the laws of R131: an argument outside its range runs as its masked value, and never stops. -/
def Obligations.ArgumentsAreMaskedNotRejected : Prop :=
  ∀ (v : Byte) (s : State),
    exec (.contrast v) s = exec (.contrast (v &&& 0x1F)) s ∧
    exec (.line v) s = exec (.line (v &&& 0x3F)) s ∧
    exec (.page v) s = exec (.page (v &&& 0x0F)) s ∧
    exec (.colLo v) s = exec (.colLo (v &&& 0x0F)) s ∧
    exec (.colHi v) s = exec (.colHi (v &&& 0x70)) s ∧
    exec (.contrast 40) s = exec (.contrast 8) s ∧
    ∀ i : Instr, isEncoderOp i = true → ∃ t, exec i s = .next t

/-- R131: the constant and the field occupy disjoint bits, so OR is addition. Derived: it states the laws of
R131 that speak of results. -/
def Obligations.OrIsAdditionInBuilders : Prop :=
  ∀ v : Byte,
    (opContrast v).toNat = 0x80 + v.toNat % 32 ∧ (opLine v).toNat = 0x40 + v.toNat % 64 ∧
    (opPage v).toNat = 0xB0 + v.toNat % 16 ∧ (opColLo v).toNat = v.toNat % 16 ∧
    (opColHi v).toNat = 0x10 + v.toNat / 16 % 8 ∧
    (v.toNat < 128 → v.toNat = ((opColHi v).toNat % 8) * 16 + (opColLo v).toNat)

/-- R21: every operation of the encoder completes in every state, delivers a result that is the same in
every state, and changes nothing else. -/
def Obligations.EncoderHasNoState : Prop :=
  ∀ i : Instr, isEncoderOp i = true →
    ∃ r : Record, ∀ s : State, exec i s = .next { s with history := s.history ++ [r] }

/-! ## Encoding -/

/-- 30_encoding.md R85 and R89 (selector values are decision D5 of the spec; that the decoder refuses the
reserved ones by name is U5 and log 24). -/
def Obligations.SelectorMap : Prop :=
  (∀ v : Byte, [0, 1, 2, 3, 4, 5, 6, 7, 8, 9, 10, 11, 12, 13, 14, 15, 16, 17].map (fun n => (decode (.select n v)).toOption) =
    [Instr.contrast v, .line v, .page v, .colLo v, .colHi v, .reset, .powerOn, .powerOff, .hflipOn, .hflipOff,
      .vflipOn, .vflipOff, .testOn, .testOff, .invertOn, .invertOff, .displayOn, .displayOff].map some) ∧
  (∀ (sel : BitVec 5) (v : Byte), 18 ≤ sel.toNat → decode (.select sel v) = .error (.reservedSelector sel)) ∧
  ∀ (s : State) (sel : BitVec 5) (v : Byte) (acts : List HostAct) (later : List (List HostAct)),
    s.resetLine = false → s.phase = .idle → s.program = (.request (.select sel v) :: acts) :: later →
    18 ≤ sel.toNat → step s = .refused (.undecodable (.reservedSelector sel))

/-- 30_encoding.md R86 (its inverse table is derived there): at most one row matches a byte, and the byte
decodes as the table says; 149 bytes decode. -/
def Obligations.OpcodeMapInverse : Prop :=
  (∀ op : Byte, (opcodeMap.filter (·.matches op)).length ≤ 1 ∧
    (op.toNat ≤ 0x0F → decode (.opcode op) = .ok (.colLo op)) ∧
    (0x10 ≤ op.toNat → op.toNat ≤ 0x17 → decode (.opcode op) = .ok (.colHi ((op &&& 0x07) <<< 4))) ∧
    (0x40 ≤ op.toNat → op.toNat ≤ 0x7F → decode (.opcode op) = .ok (.line (op &&& 0x3F))) ∧
    (0x80 ≤ op.toNat → op.toNat ≤ 0x9F → decode (.opcode op) = .ok (.contrast (op &&& 0x1F))) ∧
    (0xB0 ≤ op.toNat → op.toNat ≤ 0xBF → decode (.opcode op) = .ok (.page (op &&& 0x0F)))) ∧
  [0x28, 0x2F, 0xA0, 0xA1, 0xA4, 0xA5, 0xA6, 0xA7, 0xAE, 0xAF, 0xC0, 0xC8, 0xE2].map
      (fun op => (decode (.opcode op)).toOption) =
    [Instr.powerOff, .powerOn, .hflipOff, .hflipOn, .testOff, .testOn, .invertOff, .invertOn, .displayOff,
      .displayOn, .vflipOff, .vflipOn, .reset].map some ∧
  ((List.range 256).filter fun n => (decode (.opcode (BitVec.ofNat 8 n))).toOption.isSome).length = 149

/-- 30_encoding.md R87 (its list is derived there): the 107 bytes no row produces. No builder emits one, the
decoder refuses one by name (log 24), and a call still carries one. -/
def Obligations.UnproducedBytes : Prop :=
  ∀ op : Byte,
    ((0x18 ≤ op.toNat ∧ op.toNat ≤ 0x27) ∨ (0x29 ≤ op.toNat ∧ op.toNat ≤ 0x2E) ∨
      (0x30 ≤ op.toNat ∧ op.toNat ≤ 0x3F) ∨ op.toNat = 0xA2 ∨ op.toNat = 0xA3 ∨
      (0xA8 ≤ op.toNat ∧ op.toNat ≤ 0xAD) ∨ (0xC1 ≤ op.toNat ∧ op.toNat ≤ 0xC7) ∨
      (0xC9 ≤ op.toNat ∧ op.toNat ≤ 0xE1) ∨ 0xE3 ≤ op.toNat ↔ decode (.opcode op) = .error (.noRow op)) ∧
    (∀ i : Instr, builderOutput i = some op → ∃ j, decode (.opcode op) = .ok j) ∧
    ∀ s : State, s.phase = .idle →
      ∃ t, exec (.send .command [op]) s = .next t ∧ t.phase = .select ∧ t.bytes = [op]

/-- 30_encoding.md R81 and R85 against 40_command_encoder.md: what an operation delivers is what its encoding
says. -/
def Obligations.ResultIsTheEncoding : Prop :=
  (∀ (i : Instr) (op : Byte) (s : State), encode i = .opcode op →
    exec i s = .next { s with history := s.history ++ [.opcode op] }) ∧
  (∀ (i : Instr) (ops : List Byte) (s : State), encode i = .sequence ops →
    exec i s = .next { s with history := s.history ++ [.opcodes ops] })

/-- Decoding the encoding of a well-formed instruction gives it back, for every row of the table
(30_encoding.md R81, R83, R85, R86; 41_bitpack_transmitter.md R153). -/
def Obligations.DecodeOfEncode : Prop := ∀ i : Instr, i.wf = true → decode (encode i) = .ok i

/-- A byte that decodes is the encoding of what it decodes to (30_encoding.md R86). -/
def Obligations.EncodeOfDecodedOpcode : Prop :=
  ∀ (op : Byte) (i : Instr), decode (.opcode op) = .ok i → i.wf = true ∧ encode i = .opcode op

/-- Words written out from the encodings of 30_encoding.md R81 and R85 and 95_test_vectors.md. -/
def Obligations.WrittenOutWordsDecode : Prop :=
  decode (.opcode 0b10011110) = .ok (.contrast 30) ∧ decode (.opcode 0b01000101) = .ok (.line 5) ∧
  decode (.opcode 0b10110111) = .ok (.page 7) ∧ decode (.opcode 0b00001101) = .ok (.colLo 13) ∧
  decode (.opcode 0b00010101) = .ok (.colHi 0x50) ∧ decode (.opcode 0b11100010) = .ok .reset ∧
  decode (.sequence [0x0D, 0x10, 0xB7]) = .ok (.setPosition 13 7) ∧
  decode (.sequence [0x2F, 0x9E, 0xA4, 0xA0, 0xC0, 0xA6, 0xAF, 0x00, 0x10, 0xB0]) = .ok .initSequence ∧
  decode (.block [0x06, 0x84, 0x16, 0xE0]) = .ok (.pack .command [0x0D, 0x10, 0xB7]) ∧
  decode (.call .data [0xFF, 0x81, 0x01]) = .ok (.send .data [0xFF, 0x81, 0x01])

/-- The encoder's ports in the informative binding of 92_eei_decisions.md D3, against what the operations
deliver (30_encoding.md R85, 40_command_encoder.md R130, 10_state.md R33). That the ports have no output for
the reserved inputs is U5 and log 24. -/
def Obligations.EncoderPorts : Prop :=
  (∀ (i : Instr) (op : Byte), builderOutput i = some op ↔
    ∀ s : State, exec i s = .next { s with history := s.history ++ [.opcode op] }) ∧
  (∀ (sel : BitVec 5) (v op : Byte), encPort sel v = some op ↔
    ∃ i : Instr, decode (.select sel v) = .ok i ∧
      ∀ s : State, exec i s = .next { s with history := s.history ++ [.opcode op] }) ∧
  (∀ (sel : BitVec 5) (v : Byte), (encPort sel v).isSome = true ↔ sel.toNat < 18) ∧
  (∀ col row : Byte,
    (posPort col row).extractLsb' 16 8 = col &&& 0x0F ∧
    (posPort col row).extractLsb' 8 8 = 0x10 ||| ((col >>> 4) &&& 0x07) ∧
    (posPort col row).extractLsb' 0 8 = 0xB0 ||| (row &&& 0x0F) ∧
    ∀ s : State, exec (.setPosition col row) s = .next
      { s with history := s.history ++ [.opcodes [(posPort col row).extractLsb' 16 8,
          (posPort col row).extractLsb' 8 8, (posPort col row).extractLsb' 0 8]] }) ∧
  [0, 1, 2, 3, 4, 5, 6, 7, 8, 9, 10, 11, 12, 13, 14, 15].map initPort =
    [0x2F, 0x9E, 0xA4, 0xA0, 0xC0, 0xA6, 0xAF, 0x00, 0x10, 0xB0].map some ++ List.replicate 6 none

/-! ## The step -/

/-- A step in IDLE runs the instruction the host's next request decodes to, with the request taken from the
host's program (log 1, 2). -/
def Obligations.StepRunsDecodedRequest : Prop :=
  ∀ (s : State) (r : Request) (i : Instr) (acts : List HostAct) (later : List (List HostAct)),
    s.resetLine = false → s.phase = .idle → s.program = (.request r :: acts) :: later → decode r = .ok i →
    step s = exec i { s with program := acts :: later }

/-- R201, for the state after reset and every idle state in which the host has no call: the block waits in
IDLE. -/
def Obligations.IdleWaitsForACall : Prop :=
  step State.reset = .next State.reset ∧
  ∀ s : State, s.resetLine = false → s.phase = .idle → s.program = [] → step s = .next s

/-- The model's two other moves of the host in IDLE (log 17): a sequence ends, or the host waits and the wait is
recorded (42_driver_sequences.md R173). -/
def Obligations.HostMovesInIdle : Prop :=
  (∀ (s : State) (later : List (List HostAct)), s.resetLine = false → s.phase = .idle →
    s.program = [] :: later → step s = .next { s with program := later }) ∧
  ∀ (s : State) (us : Nat) (acts : List HostAct) (later : List (List HostAct)),
    s.resetLine = false → s.phase = .idle → s.program = (.waitUs us :: acts) :: later →
    step s = .next { s with program := acts :: later, history := s.history ++ [.waited us] }

/-- 10_state.md R34 and 70_reset_and_hazards.md R200, whose values are decisions D9 and D10 of the spec, for
the fields they give a value: `phase`, `idx`, `cs`, and no event. -/
def Obligations.StateAfterReset : Prop :=
  State.reset.phase = .idle ∧ State.reset.idx = 0 ∧ State.reset.cs = .high ∧
  State.reset.outstanding = none ∧ State.reset.trace = [] ∧ State.reset.history = []

/-! ## The packing function -/

/-- 41_bitpack_transmitter.md R141: every output bit, every scratch cell written, and nothing else changes. That
the cells beyond `n` keep their old content is the model's reading (log 16, DEDUCED), since 10_state.md R23 and
93_implementation_defined.md U3 call that content unspecified. -/
def Obligations.PackFollowsTheBitStream : Prop :=
  (∀ (c : Classification) (K : List Byte) (s : State), 1 ≤ K.length → K.length ≤ 8 →
    ∃ (out : List Byte) (cells : Vector Byte 9),
      exec (.pack c K) s = .next { s with scratch := cells, history := s.history ++ [.packed out] } ∧
      out.length = K.length + 1 ∧
      (∀ k m : Nat, k ≤ K.length → m < 8 → (out.getD k 0).getLsbD (7 - m) =
        if 8 * k + m < 9 * K.length then
          if (8 * k + m) % 9 = 0 then c.bit
          else (K.getD ((8 * k + m) / 9) 0).getLsbD (7 - ((8 * k + m) % 9 - 1))
        else false) ∧
      ∀ k : Fin 9, cells[k] = if k.val ≤ K.length then out.getD k.val 0 else s.scratch[k]) ∧
  pack .command [0xE2] = [0x71, 0x00] ∧ pack .data [0xFF] = [0xFF, 0x80] ∧
  pack .data [0, 0, 0, 0, 0, 0, 0, 0] = [0x80, 0x40, 0x20, 0x10, 0x08, 0x04, 0x02, 0x01, 0x00]

/-- 41_bitpack_transmitter.md R143: `n + 1` output bytes for 1 to 8 bytes, and none, with no bus transaction,
for none. That PACK of no bytes completes with nothing written is the model's reading (log 14, DEDUCED), since
R141 puts `n = 0` outside the function's domain. -/
def Obligations.PackLengthLaw : Prop :=
  (∀ (c : Classification) (K : List Byte), 1 ≤ K.length → K.length ≤ 8 → (pack c K).length = K.length + 1) ∧
  ∀ (c : Classification) (s : State),
    exec (.pack c []) s = .next { s with history := s.history ++ [.packed []] }

/-- The model's choice (log 14): more than 8 bytes, outside the domain of R141, are refused by name. -/
def Obligations.PackRefusesLongBlocks : Prop :=
  ∀ (c : Classification) (K : List Byte) (s : State), 8 < K.length →
    exec (.pack c K) s = .refused .blockTooLong

/-- R142 (derived there from R141): the closed forms give the same bytes. -/
def Obligations.PackClosedForms : Prop :=
  ∀ (c : Classification) (K : List Byte), 1 ≤ K.length → K.length ≤ 8 →
    pack c K = packByBytes c K ∧ pack c K = packByNumber c K

/-- R153: the inverse recovers every control bit, every byte and an all-zero pad; packing is injective. -/
def Obligations.UnpackInvertsPack : Prop :=
  (∀ (c : Classification) (K : List Byte), 1 ≤ K.length → K.length ≤ 8 →
    unpack (pack c K) = (List.replicate K.length c.bit, K, List.replicate (8 - K.length) false)) ∧
  ∀ (c d : Classification) (K J : List Byte), 1 ≤ K.length → K.length ≤ 8 → 1 ≤ J.length → J.length ≤ 8 →
    pack c K = pack d J → c = d ∧ K = J

/-- 20_memory.md R58 and R59 (their table is derived there): the last byte holds the low `n` bits of the last
logical byte above `8 - n` zero bits, and word `i` starts, with its control bit, at bit `7 - i` of byte `i`. -/
def Obligations.PaddingAndWordPositions : Prop :=
  ∀ (c : Classification) (K : List Byte), 1 ≤ K.length → K.length ≤ 8 →
    (bitStream c K).length = 9 * K.length ∧
    (pack c K).getD K.length 0 = K.getD (K.length - 1) 0 <<< (8 - K.length) ∧
    (∀ j, j < 8 - K.length → ((pack c K).getD K.length 0).getLsbD j = false) ∧
    ∀ i, i < K.length → ((pack c K).getD i 0).getLsbD (7 - i) = c.bit

/-! ## The call, step by step -/

/-- R146 for a call in IDLE, the next state given whole; its last sentence is decision D16, see
`SendOutsideIdleIsRefused`. -/
def Obligations.AcceptLatchesTheCall : Prop :=
  ∀ (c : Classification) (B : List Byte) (s : State), s.phase = .idle →
    (B ≠ [] → exec (.send c B) s = .next
      { s with cLat := c, idx := 0, bytes := B, nCur := min 8 B.length, phase := .select, outstanding := none,
               trace := [] }) ∧
    (B = [] → exec (.send c B) s = .next
      { s with cLat := c, idx := 0, bytes := [], outstanding := none, trace := [],
               history := s.history ++ [.returned [] .ok] })

/-- R152: the empty call returns `OK` with no event and leaves the line, the bus and the answers alone. -/
def Obligations.EmptyCallDoesNothing : Prop :=
  ∀ (c : Classification) (s : State), s.phase = .idle →
    ∃ t, exec (.send c []) s = .next t ∧ t.phase = .idle ∧ t.history = s.history ++ [.returned [] .ok] ∧
      t.cs = s.cs ∧ t.wire = s.wire ∧ t.answers = s.answers ∧ t.outstanding = none ∧
      t.scratch = s.scratch ∧ t.nCur = s.nCur ∧ t.program = s.program ∧ t.draws = s.draws ∧
      t.resetLine = s.resetLine

/-- Decision D16 of the spec (R146, R215) and log 13: outside IDLE there is no such step. -/
def Obligations.SendOutsideIdleIsRefused : Prop :=
  ∀ (c : Classification) (B : List Byte) (s : State), s.phase ≠ .idle →
    exec (.send c B) s = .refused .callInProgress

/-- R147, the next state given whole. That the host drops its sequence after `COMM_FAIL` is
`FailureEndsTheSequence` (decision D17 of the spec, log 17); the fields that record events are the model's (log 5, 6, 17). -/
def Obligations.SelectStep : Prop :=
  ∀ (s : State) (rest : List Answer), s.resetLine = false → s.phase = .select →
    (s.answers = .ok :: rest → step s = .next
      { s with answers := rest, outstanding := none, trace := s.trace ++ [(.csLow, .ok)], cs := .low,
               phase := .write }) ∧
    (s.answers = .fail :: rest → step s = .next
      { s with answers := rest, outstanding := none, trace := [], cs := .unknown, phase := .idle,
               history := s.history ++ [.returned (s.trace ++ [(.csLow, .fail)]) .commFail],
               program := s.program.tail })

/-- 41_bitpack_transmitter.md R148 (one bus write for the block and no `CsHigh` after a failed one are
decisions D13 and D11 of the spec; the part a failed write carries is U2, log 8). The order of the bits on the
wire is decision D15 of the spec (log 7, UNVERIFIED). That the cells beyond `n_cur` keep their content is the
model's reading (log 16, DEDUCED; U3); the host's program after a failure is as in `SelectStep` (decision D17 of
the spec, log 17). -/
def Obligations.WriteStep : Prop :=
  ∀ (s : State) (rest : List Answer), s.inv → s.resetLine = false → s.phase = .write →
    ∃ (ws : List Byte) (cells : Vector Byte 9),
      ws = pack s.cLat ((s.bytes.drop s.idx).take s.nCur) ∧ ws.length = s.nCur + 1 ∧
      (∀ k : Fin 9, cells[k] = if k.val ≤ s.nCur then ws.getD k.val 0 else s.scratch[k]) ∧
      (s.answers = .ok :: rest → step s = .next
        { s with answers := rest, outstanding := none, trace := s.trace ++ [(.busWrite ws, .ok)],
                 scratch := cells, wire := s.wire ++ bytesBits ws, phase := .deselect }) ∧
      (s.answers = .fail :: rest → ∃ n : Nat, step s = .next
        { s with answers := rest, outstanding := none, trace := [], scratch := cells,
                 wire := s.wire ++ (bytesBits ws).take n, phase := .idle, draws := s.draws + 1,
                 history := s.history ++ [.returned (s.trace ++ [(.busWrite ws, .fail)]) .commFail],
                 program := s.program.tail })

/-- R149 and R150, the next state given whole; the host's program and the fields that record events as in
`SelectStep` (log 5, 6, 17). -/
def Obligations.DeselectStep : Prop :=
  ∀ (s : State) (rest : List Answer), s.inv → s.resetLine = false → s.phase = .deselect →
    (s.answers = .ok :: rest → s.idx + s.nCur < s.bytes.length → step s = .next
      { s with answers := rest, outstanding := none, trace := s.trace ++ [(.csHigh, .ok)], cs := .high,
               idx := s.idx + s.nCur, nCur := min 8 (s.bytes.length - (s.idx + s.nCur)), phase := .select }) ∧
    (s.answers = .ok :: rest → s.idx + s.nCur = s.bytes.length → step s = .next
      { s with answers := rest, outstanding := none, trace := [], cs := .high, idx := s.idx + s.nCur,
               phase := .idle, history := s.history ++ [.returned (s.trace ++ [(.csHigh, .ok)]) .ok] }) ∧
    (s.answers = .fail :: rest → step s = .next
      { s with answers := rest, outstanding := none, trace := [], cs := .unknown, phase := .idle,
               history := s.history ++ [.returned (s.trace ++ [(.csHigh, .fail)]) .commFail],
               program := s.program.tail }) ∧
    s.idx + s.nCur ≤ s.bytes.length

/-- 60_exceptions.md R196, with the model's way of waiting (log 4, 5): with no answer at hand the event is
outstanding, the call never ends, however many steps pass, and nothing else changes, but that a block in WRITE
has been packed into the scratch buffer (R148; its cells beyond `n_cur` as log 16 says). That the wire has
none of an unanswered write is the model's choice (log 25). -/
def Obligations.SilentEnvironmentHangsTheCall : Prop :=
  ∀ s : State, s.inv → s.resetLine = false → s.phase ≠ .idle → s.answers = [] →
    ∀ n : Nat, runSteps (n + 1) s =
      some { s with
        outstanding := s.nextEvent
        scratch := if s.phase = .write then (s.writeScratch (pack s.cLat s.block)).scratch else s.scratch }

/-! ## The exception -/

/-- R183: a step raises `CommFail` exactly at the three points, on an event answered `fail`; the host's
operations in IDLE never do. -/
def Obligations.CommFailRaisedAtThreePoints : Prop :=
  (∀ (s t : State) (tr : Trace), s.inv → step s = .next t →
    t.history = s.history ++ [.returned tr .commFail] →
    s.phase ≠ .idle ∧ ∃ e, s.nextEvent = some e ∧ s.answers.head? = some .fail ∧ tr = s.trace ++ [(e, .fail)]) ∧
  (∀ (s : State), s.inv → s.resetLine = false → s.phase ≠ .idle → s.answers.head? = some .fail →
    ∃ t tr, step s = .next t ∧ t.history = s.history ++ [.returned tr .commFail]) ∧
  ∀ (i : Instr) (s t : State) (tr : Trace), exec i s = .next t →
    t.history ≠ s.history ++ [.returned tr .commFail]

/-- 60_exceptions.md R184 and R186 (the line after a failure is decision D11 of the spec): the block is in
IDLE, no event is left, the call's trace is the frames before block `j` and the failed event, and the line
is `0` after a failed bus write and `X` after a failed pin request (log 9). The part a failed write carries is
U2 (log 8), and the order of its bits decision D15 of the spec (log 7, UNVERIFIED). -/
def Obligations.StateAfterCommFail : Prop :=
  ∀ (s t : State) (tr : Trace), s.inv → step s = .next t → t.history = s.history ++ [.returned tr .commFail] →
    t.phase = .idle ∧ t.outstanding = none ∧ t.trace = [] ∧ t.idx = s.idx ∧ t.cLat = s.cLat ∧ t.nCur = s.nCur ∧
    (s.phase = .select → t.cs = .unknown ∧ t.wire = s.wire ∧
      tr = allOk ((callEvents s.cLat s.bytes).take (3 * (s.idx / 8))) ++ [(.csLow, .fail)]) ∧
    (s.phase = .write → t.cs = .low ∧
      tr = allOk ((callEvents s.cLat s.bytes).take (3 * (s.idx / 8)) ++ [.csLow]) ++
        [(.busWrite (pack s.cLat s.block), .fail)] ∧
      ∃ n, t.wire = s.wire ++ (bytesBits (pack s.cLat s.block)).take n) ∧
    (s.phase = .deselect → t.cs = .unknown ∧ t.wire = s.wire ∧
      tr = allOk ((callEvents s.cLat s.bytes).take (3 * (s.idx / 8)) ++
        [.csLow, .busWrite (pack s.cLat s.block)]) ++ [(.csHigh, .fail)])

/-- 42_driver_sequences.md R177: a call that fails ends the sequence it belongs to (that the first `COMM_FAIL`
ends it is decision D17 of the spec, and the host's dropping of it log 17, DESIGN CHOICE), and no other step of a call touches the host's
program. -/
def Obligations.FailureEndsTheSequence : Prop :=
  ∀ (s t : State), s.inv → s.resetLine = false → s.phase ≠ .idle → step s = .next t →
    ((∃ tr, t.history = s.history ++ [.returned tr .commFail]) → t.program = s.program.tail) ∧
    ((¬ ∃ tr, t.history = s.history ++ [.returned tr .commFail]) → t.program = s.program)

/-! ## Invariants -/

/-- The invariant of `Safety.lean` holds after reset (it rests on the reset value of `n_cur`, log 10). -/
def Obligations.InvariantAtReset : Prop := State.reset.inv

/-- Every step keeps the invariant: block cursor and block size (10_state.md R24, R26), the frames of the
trace (41_bitpack_transmitter.md R151), the select line (10_state.md R27). -/
def Obligations.StepKeepsTheInvariant : Prop := ∀ s t : State, s.inv → step s = .next t → t.inv

/-- No step from a state that meets the invariant faults (log 15); it stops only where the host's request is
refused by the decoder. -/
def Obligations.NoFaultUnderTheInvariant : Prop :=
  (∀ (s : State) (f : Fault), s.inv → step s ≠ .fault f) ∧
  ∀ (s : State) (r : Refusal), s.inv → step s = .refused r →
    s.phase = .idle ∧ ∃ why, r = .undecodable why

/-- 41_bitpack_transmitter.md R151 (derived there), (b) to (d): a bus write is issued with the line low, right
after a `CsLow` answered `ok`, carries 2 to 9 bytes, and begins with the control bit of the call. -/
def Obligations.BusWriteOnlyInsideAFrame : Prop :=
  ∀ (s : State) (ws : List Byte), s.inv → s.nextEvent = some (.busWrite ws) →
    s.cs = .low ∧ s.trace.getLast? = some (.csLow, .ok) ∧ 2 ≤ ws.length ∧ ws.length ≤ 9 ∧
    (ws.headD 0).getLsbD 7 = s.cLat.bit

/-- R27: how a step without a block reset changes the select line; a bus write and the host's operations
leave it. -/
def Obligations.SelectLineFollowsItsAnswers : Prop :=
  ∀ (s t : State), s.resetLine = false → step s = .next t →
    (s.phase = .select → s.answers.head? = some .ok → t.cs = .low) ∧
    (s.phase = .deselect → s.answers.head? = some .ok → t.cs = .high) ∧
    ((s.phase = .select ∨ s.phase = .deselect) → s.answers.head? = some .fail → t.cs = .unknown) ∧
    ((s.phase = .idle ∨ s.phase = .write ∨ s.answers = []) → t.cs = s.cs)

/-- Whole-machine rule of 60_exceptions.md R183 and 40_command_encoder.md R110: no instruction by itself
drives the line, writes the bus or draws an answer; events come only from the phases of a call. -/
def Obligations.InstructionsEmitNoEvent : Prop :=
  ∀ (i : Instr) (s t : State), exec i s = .next t →
    t.cs = s.cs ∧ t.wire = s.wire ∧ t.answers = s.answers ∧ t.program = s.program ∧
    t.resetLine = s.resetLine ∧ t.draws = s.draws

/-- R156: the cursor moves only when a block has completed, by 1 to 8; a new call or a block reset sets it to
0; and a call performs at most `3·ceil(L/8)` events. -/
def Obligations.CursorOnlyAdvancesByBlocks : Prop :=
  (∀ s t : State, s.inv → s.resetLine = false → s.phase ≠ .idle → step s = .next t →
    t.idx = s.idx ∨
      (s.phase = .deselect ∧ s.answers.head? = some .ok ∧ t.idx = s.idx + s.nCur ∧ 1 ≤ s.nCur ∧ s.nCur ≤ 8)) ∧
  ∀ (c : Classification) (B : List Byte) (ans : List Answer) (cs : Level),
    (sendWhole c B ans cs).trace.length ≤ 3 * ((B.length + 7) / 8)

/-- 70_reset_and_hazards.md R200 and R202 (decisions D9, D10, D24 of the spec; log 12): a block reset, during a
call or not. No status is returned and no event is emitted. The part an open bus write carries is as U2 (log 8),
the order of its bits decision D15 of the spec (log 7, UNVERIFIED). -/
def Obligations.BlockResetAbandonsTheCall : Prop :=
  ∀ s : State, s.resetLine = true → ∃ t, step s = .next t ∧
    t.phase = .idle ∧ t.idx = 0 ∧ 1 ≤ t.nCur ∧ t.nCur ≤ 8 ∧ t.outstanding = none ∧ t.trace = [] ∧
    t.resetLine = false ∧ t.answers = s.answers ∧
    t.history = s.history ++ [.blockReset s.trace s.outstanding] ∧
    (t.cs = if s.phase = .write ∨ s.phase = .deselect ∨ (s.phase = .select ∧ s.outstanding ≠ none) then
      .unknown else .high) ∧
    (∀ ws, s.outstanding = some (.busWrite ws) → ∃ n, t.wire = s.wire ++ (bytesBits ws).take n) ∧
    ((∀ ws, s.outstanding ≠ some (.busWrite ws)) → t.wire = s.wire)

/-! ## The call as a whole -/

/-- R144: the steps of an accepted call come to what the loop says: its trace, its status, the answers it
drew; and the host is left with the rest of its program (after a failure, without the sequence: R177 by
decision D17 of the spec, log 17, DESIGN CHOICE). -/
def Obligations.StepsRunTheWholeCall : Prop :=
  ∀ (s : State) (c : Classification) (B : List Byte) (st : Status),
    s.phase = .idle → s.resetLine = false → (sendWhole c B s.answers s.cs).status = some st →
    ∃ t u, exec (.send c B) s = .next t ∧
      runSteps (sendWhole c B s.answers s.cs).trace.length t = some u ∧
      u.phase = .idle ∧ u.outstanding = none ∧ u.trace = [] ∧
      u.history = s.history ++ [.returned (sendWhole c B s.answers s.cs).trace st] ∧
      u.answers = (sendWhole c B s.answers s.cs).answers ∧
      u.program = if st = .ok then s.program else s.program.tail

/-- R35 (derived there): the line after a call. -/
def Obligations.LineAfterACall : Prop :=
  ∀ (s : State) (c : Classification) (B : List Byte) (st : Status),
    s.phase = .idle → s.resetLine = false → (sendWhole c B s.answers s.cs).status = some st →
    ∃ t u, exec (.send c B) s = .next t ∧
      runSteps (sendWhole c B s.answers s.cs).trace.length t = some u ∧
      (B = [] → u.cs = s.cs) ∧ (st = .ok → B ≠ [] → u.cs = .high) ∧
      (st = .commFail → u.cs = match (sendWhole c B s.answers s.cs).trace.getLast? with
        | some (.busWrite _, _) => .low
        | _ => .unknown)

/-- R196 and R144: a call for which the answers run out stays in progress, its trace as far as the answers
went (log 4). -/
def Obligations.CallWithoutAnswersStaysInProgress : Prop :=
  ∀ (s : State) (c : Classification) (B : List Byte), s.phase = .idle → s.resetLine = false →
    (sendWhole c B s.answers s.cs).status = none →
    ∃ t, exec (.send c B) s = .next t ∧ ∀ n, (sendWhole c B s.answers s.cs).trace.length ≤ n →
      ∃ u, runSteps n t = some u ∧ u.phase ≠ .idle ∧ u.trace = (sendWhole c B s.answers s.cs).trace ∧
        u.history = s.history ∧ u.answers = []

/-- R151 (derived there), (a): the trace of a call is the whole of its frames when it returns `OK`, a proper
beginning and the failed event when it returns `COMM_FAIL`, a proper beginning while it waits. -/
def Obligations.TraceOfACallIsItsFrames : Prop :=
  ∀ (c : Classification) (B : List Byte) (ans : List Answer) (cs : Level),
    match (sendWhole c B ans cs).status with
    | some .ok => (sendWhole c B ans cs).trace = allOk (callEvents c B)
    | some .commFail => ∃ k e, (callEvents c B)[k]? = some e ∧
        (sendWhole c B ans cs).trace = allOk ((callEvents c B).take k) ++ [(e, .fail)]
    | none => ∃ k, k < (callEvents c B).length ∧
        (sendWhole c B ans cs).trace = allOk ((callEvents c B).take k)

/-- R185 and R156: with `3·ceil(L/8)` answers at hand every call ends, and with all of them `ok` it returns
`OK` after exactly that many events (the premise that the environment answers is decision D14 of the spec). -/
def Obligations.AnsweredCallsEnd : Prop :=
  (∀ (c : Classification) (B : List Byte) (ans : List Answer) (cs : Level),
    3 * ((B.length + 7) / 8) ≤ ans.length → (sendWhole c B ans cs).status ≠ none) ∧
  ∀ (c : Classification) (B : List Byte) (rest : List Answer) (cs : Level),
    let r := sendWhole c B (List.replicate (3 * ((B.length + 7) / 8)) .ok ++ rest) cs
    r.status = some .ok ∧ r.trace = allOk (callEvents c B) ∧ r.answers = rest

/-- R145 (decision D7 of the spec): the greedy partition. -/
def Obligations.BlocksAreGreedy : Prop :=
  ∀ B : List Byte,
    (blocks B).flatten = B ∧ (blocks B).length = (B.length + 7) / 8 ∧
    (∀ K ∈ (blocks B).dropLast, K.length = 8) ∧
    ∀ K, (blocks B).getLast? = some K → K.length = B.length - 8 * ((B.length - 1) / 8) ∧ 1 ≤ K.length ∧ K.length ≤ 8

/-- R155 (derived there): the counts of a call of `L` bytes that returns `OK`. -/
def Obligations.CountsOfACall : Prop :=
  ∀ (c : Classification) (B : List Byte),
    (callEvents c B).count .csLow = (B.length + 7) / 8 ∧ (callEvents c B).count .csHigh = (B.length + 7) / 8 ∧
    (busWrites (callEvents c B)).length = (B.length + 7) / 8 ∧
    (callEvents c B).length = 3 * ((B.length + 7) / 8) ∧
    (busWrites (callEvents c B)).flatten.length = B.length + (B.length + 7) / 8

/-- R154, and R94 with R153: every bus write of a call is one block packed with the call's own control bit,
and unpacking them in order gives back the bytes of the call, whatever they are. -/
def Obligations.CallCarriesItsBytes : Prop :=
  ∀ (c : Classification) (B : List Byte),
    (∀ ws ∈ busWrites (callEvents c B), ∃ K, 1 ≤ K.length ∧ K.length ≤ 8 ∧ ws = pack c K) ∧
    (busWrites (callEvents c B)).flatMap (fun ws => (unpack ws).2.1) = B ∧
    ∀ ws ∈ busWrites (callEvents c B), ∀ b ∈ (unpack ws).1, b = c.bit

/-- R20: two runs of a call that draw the same answers give the same trace and status, whatever the block and
the line held before. -/
def Obligations.CallsAreIndependent : Prop :=
  ∀ (s s' : State) (c : Classification) (B : List Byte),
    s.phase = .idle → s'.phase = .idle → s.resetLine = false → s'.resetLine = false → s.answers = s'.answers →
    (sendWhole c B s.answers s.cs).status ≠ none →
    ∃ t t' u u' n r, exec (.send c B) s = .next t ∧ exec (.send c B) s' = .next t' ∧
      runSteps n t = some u ∧ runSteps n t' = some u' ∧ u.phase = .idle ∧ u'.phase = .idle ∧
      u.history = s.history ++ [r] ∧ u'.history = s'.history ++ [r] ∧ u.answers = u'.answers

/-! ## The host -/

/-- 42_driver_sequences.md R173 (the grouping into calls is decision D17 of the spec): the frames of
`initialize`, with the wait between them, when every event is answered `ok`. -/
def Obligations.InitializeSendsItsFrames : Prop :=
  ∀ (s : State) (later : List (List HostAct)) (rest : List Answer),
    s.phase = .idle → s.resetLine = false → s.program = initializePanel :: later →
    s.answers = List.replicate 9 .ok ++ rest →
    ∃ u, runSteps 12 s = some u ∧ u.phase = .idle ∧ u.cs = .high ∧ u.program = [] :: later ∧ u.answers = rest ∧
      u.history = s.history ++
        [.returned (allOk [.csLow, .busWrite [0x71, 0x00], .csHigh]) .ok, .waited 100,
         .returned (allOk [.csLow, .busWrite [0x17, 0xA7, 0x94, 0x8A, 0x06, 0x02, 0x99, 0x5E, 0x00], .csHigh,
           .csLow, .busWrite [0x08, 0x2C, 0x00], .csHigh]) .ok]

/-- 42_driver_sequences.md R174 (one call a line is decision D17 of the spec): `send_buffer` sends the origin
and then every line in order, when every event is answered `ok`. -/
def Obligations.SendBufferSendsEveryLine : Prop :=
  ∀ (s : State) (buffer : FrameBuffer) (later : List (List HostAct)),
    s.phase = .idle → s.resetLine = false → s.program = sendBuffer buffer :: later →
    (∀ a ∈ s.answers, a = .ok) →
    3 + (buffer.map fun l => 3 * ((l.length + 7) / 8)).sum ≤ s.answers.length →
    ∃ n u, runSteps n s = some u ∧ u.phase = .idle ∧ u.program = [] :: later ∧
      u.history = s.history ++
        .returned (allOk [.csLow, .busWrite [0x00, 0x04, 0x16, 0x00], .csHigh]) .ok ::
          buffer.map fun l => .returned (allOk (callEvents .data l)) .ok

/-- 20_memory.md R67 and R68, outside the block (log 18): a pixel written reads back, every other pixel is
left, and off the canvas nothing happens. -/
def Obligations.SetPixelChangesOnePixel : Prop :=
  ∀ (fb : FrameBuffer) (x y : Nat) (on : Bool),
    ((∃ l ∈ fb[y / 8]?, x < l.length) → getPixel (setPixel fb x y on) x y = some on) ∧
    (∀ x' y' : Nat, (x', y') ≠ (x, y) → getPixel (setPixel fb x y on) x' y' = getPixel fb x' y') ∧
    ((¬ ∃ l ∈ fb[y / 8]?, x < l.length) → setPixel fb x y on = fb)
end

