-- ==== Sys2Proof/Laws/State.lean ====
section
/-! SUPPORT. What each shared update does to each field of the state, so that no later proof unfolds one. -/

namespace Sys2Proof.Machine.State

variable (s : State)

@[simp] theorem record_phase (r : Record) : (s.record r).phase = s.phase := rfl
@[simp] theorem record_cLat (r : Record) : (s.record r).cLat = s.cLat := rfl
@[simp] theorem record_idx (r : Record) : (s.record r).idx = s.idx := rfl
@[simp] theorem record_nCur (r : Record) : (s.record r).nCur = s.nCur := rfl
@[simp] theorem record_scratch (r : Record) : (s.record r).scratch = s.scratch := rfl
@[simp] theorem record_bytes (r : Record) : (s.record r).bytes = s.bytes := rfl
@[simp] theorem record_cs (r : Record) : (s.record r).cs = s.cs := rfl
@[simp] theorem record_wire (r : Record) : (s.record r).wire = s.wire := rfl
@[simp] theorem record_outstanding (r : Record) : (s.record r).outstanding = s.outstanding := rfl
@[simp] theorem record_trace (r : Record) : (s.record r).trace = s.trace := rfl
@[simp] theorem record_history (r : Record) : (s.record r).history = s.history ++ [r] := rfl
@[simp] theorem record_answers (r : Record) : (s.record r).answers = s.answers := rfl
@[simp] theorem record_program (r : Record) : (s.record r).program = s.program := rfl
@[simp] theorem record_resetLine (r : Record) : (s.record r).resetLine = s.resetLine := rfl
@[simp] theorem record_draws (r : Record) : (s.record r).draws = s.draws := rfl

@[simp] theorem writeScratch_phase (out : List Byte) : (s.writeScratch out).phase = s.phase := rfl
@[simp] theorem writeScratch_cLat (out : List Byte) : (s.writeScratch out).cLat = s.cLat := rfl
@[simp] theorem writeScratch_idx (out : List Byte) : (s.writeScratch out).idx = s.idx := rfl
@[simp] theorem writeScratch_nCur (out : List Byte) : (s.writeScratch out).nCur = s.nCur := rfl
@[simp] theorem writeScratch_scratch (out : List Byte) : (s.writeScratch out).scratch = Vector.ofFn fun k : Fin 9 => out.getD k s.scratch[k] := rfl
@[simp] theorem writeScratch_bytes (out : List Byte) : (s.writeScratch out).bytes = s.bytes := rfl
@[simp] theorem writeScratch_cs (out : List Byte) : (s.writeScratch out).cs = s.cs := rfl
@[simp] theorem writeScratch_wire (out : List Byte) : (s.writeScratch out).wire = s.wire := rfl
@[simp] theorem writeScratch_outstanding (out : List Byte) : (s.writeScratch out).outstanding = s.outstanding := rfl
@[simp] theorem writeScratch_trace (out : List Byte) : (s.writeScratch out).trace = s.trace := rfl
@[simp] theorem writeScratch_history (out : List Byte) : (s.writeScratch out).history = s.history := rfl
@[simp] theorem writeScratch_answers (out : List Byte) : (s.writeScratch out).answers = s.answers := rfl
@[simp] theorem writeScratch_program (out : List Byte) : (s.writeScratch out).program = s.program := rfl
@[simp] theorem writeScratch_resetLine (out : List Byte) : (s.writeScratch out).resetLine = s.resetLine := rfl
@[simp] theorem writeScratch_draws (out : List Byte) : (s.writeScratch out).draws = s.draws := rfl
@[simp] theorem writeScratch_block (out : List Byte) : (s.writeScratch out).block = s.block := rfl

@[simp] theorem endCall_phase (st : Status) : (s.endCall st).phase = .idle := rfl
@[simp] theorem endCall_cLat (st : Status) : (s.endCall st).cLat = s.cLat := rfl
@[simp] theorem endCall_idx (st : Status) : (s.endCall st).idx = s.idx := rfl
@[simp] theorem endCall_nCur (st : Status) : (s.endCall st).nCur = s.nCur := rfl
@[simp] theorem endCall_scratch (st : Status) : (s.endCall st).scratch = s.scratch := rfl
@[simp] theorem endCall_bytes (st : Status) : (s.endCall st).bytes = s.bytes := rfl
@[simp] theorem endCall_cs (st : Status) : (s.endCall st).cs = s.cs := rfl
@[simp] theorem endCall_wire (st : Status) : (s.endCall st).wire = s.wire := rfl
@[simp] theorem endCall_outstanding (st : Status) : (s.endCall st).outstanding = none := rfl
@[simp] theorem endCall_trace (st : Status) : (s.endCall st).trace = [] := rfl
@[simp] theorem endCall_history (st : Status) : (s.endCall st).history = s.history ++ [.returned s.trace st] := rfl
@[simp] theorem endCall_answers (st : Status) : (s.endCall st).answers = s.answers := rfl
@[simp] theorem endCall_program (st : Status) : (s.endCall st).program = s.program := rfl
@[simp] theorem endCall_resetLine (st : Status) : (s.endCall st).resetLine = s.resetLine := rfl
@[simp] theorem endCall_draws (st : Status) : (s.endCall st).draws = s.draws := rfl

@[simp] theorem dropSequence_phase : (s.dropSequence).phase = s.phase := rfl
@[simp] theorem dropSequence_cLat : (s.dropSequence).cLat = s.cLat := rfl
@[simp] theorem dropSequence_idx : (s.dropSequence).idx = s.idx := rfl
@[simp] theorem dropSequence_nCur : (s.dropSequence).nCur = s.nCur := rfl
@[simp] theorem dropSequence_scratch : (s.dropSequence).scratch = s.scratch := rfl
@[simp] theorem dropSequence_bytes : (s.dropSequence).bytes = s.bytes := rfl
@[simp] theorem dropSequence_cs : (s.dropSequence).cs = s.cs := rfl
@[simp] theorem dropSequence_wire : (s.dropSequence).wire = s.wire := rfl
@[simp] theorem dropSequence_outstanding : (s.dropSequence).outstanding = s.outstanding := rfl
@[simp] theorem dropSequence_trace : (s.dropSequence).trace = s.trace := rfl
@[simp] theorem dropSequence_history : (s.dropSequence).history = s.history := rfl
@[simp] theorem dropSequence_answers : (s.dropSequence).answers = s.answers := rfl
@[simp] theorem dropSequence_program : (s.dropSequence).program = s.program.tail := rfl
@[simp] theorem dropSequence_resetLine : (s.dropSequence).resetLine = s.resetLine := rfl
@[simp] theorem dropSequence_draws : (s.dropSequence).draws = s.draws := rfl

@[simp] theorem raiseCommFail_phase : (s.raiseCommFail).phase = .idle := rfl
@[simp] theorem raiseCommFail_cLat : (s.raiseCommFail).cLat = s.cLat := rfl
@[simp] theorem raiseCommFail_idx : (s.raiseCommFail).idx = s.idx := rfl
@[simp] theorem raiseCommFail_nCur : (s.raiseCommFail).nCur = s.nCur := rfl
@[simp] theorem raiseCommFail_scratch : (s.raiseCommFail).scratch = s.scratch := rfl
@[simp] theorem raiseCommFail_bytes : (s.raiseCommFail).bytes = s.bytes := rfl
@[simp] theorem raiseCommFail_cs : (s.raiseCommFail).cs = s.cs := rfl
@[simp] theorem raiseCommFail_wire : (s.raiseCommFail).wire = s.wire := rfl
@[simp] theorem raiseCommFail_outstanding : (s.raiseCommFail).outstanding = none := rfl
@[simp] theorem raiseCommFail_trace : (s.raiseCommFail).trace = [] := rfl
@[simp] theorem raiseCommFail_history : (s.raiseCommFail).history = s.history ++ [.returned s.trace .commFail] := rfl
@[simp] theorem raiseCommFail_answers : (s.raiseCommFail).answers = s.answers := rfl
@[simp] theorem raiseCommFail_program : (s.raiseCommFail).program = s.program.tail := rfl
@[simp] theorem raiseCommFail_resetLine : (s.raiseCommFail).resetLine = s.resetLine := rfl
@[simp] theorem raiseCommFail_draws : (s.raiseCommFail).draws = s.draws := rfl

@[simp] theorem carry_phase (ws : List Byte) (n : Nat) : (s.carry ws n).phase = s.phase := rfl
@[simp] theorem carry_cLat (ws : List Byte) (n : Nat) : (s.carry ws n).cLat = s.cLat := rfl
@[simp] theorem carry_idx (ws : List Byte) (n : Nat) : (s.carry ws n).idx = s.idx := rfl
@[simp] theorem carry_nCur (ws : List Byte) (n : Nat) : (s.carry ws n).nCur = s.nCur := rfl
@[simp] theorem carry_scratch (ws : List Byte) (n : Nat) : (s.carry ws n).scratch = s.scratch := rfl
@[simp] theorem carry_bytes (ws : List Byte) (n : Nat) : (s.carry ws n).bytes = s.bytes := rfl
@[simp] theorem carry_cs (ws : List Byte) (n : Nat) : (s.carry ws n).cs = s.cs := rfl
@[simp] theorem carry_wire (ws : List Byte) (n : Nat) : (s.carry ws n).wire = s.wire ++ (bytesBits ws).take n := rfl
@[simp] theorem carry_outstanding (ws : List Byte) (n : Nat) : (s.carry ws n).outstanding = s.outstanding := rfl
@[simp] theorem carry_trace (ws : List Byte) (n : Nat) : (s.carry ws n).trace = s.trace := rfl
@[simp] theorem carry_history (ws : List Byte) (n : Nat) : (s.carry ws n).history = s.history := rfl
@[simp] theorem carry_answers (ws : List Byte) (n : Nat) : (s.carry ws n).answers = s.answers := rfl
@[simp] theorem carry_program (ws : List Byte) (n : Nat) : (s.carry ws n).program = s.program := rfl
@[simp] theorem carry_resetLine (ws : List Byte) (n : Nat) : (s.carry ws n).resetLine = s.resetLine := rfl
@[simp] theorem carry_draws (ws : List Byte) (n : Nat) : (s.carry ws n).draws = s.draws := rfl

@[simp] theorem carrySome_phase (ws : List Byte) : (s.carrySome ws).phase = s.phase := rfl
@[simp] theorem carrySome_cLat (ws : List Byte) : (s.carrySome ws).cLat = s.cLat := rfl
@[simp] theorem carrySome_idx (ws : List Byte) : (s.carrySome ws).idx = s.idx := rfl
@[simp] theorem carrySome_nCur (ws : List Byte) : (s.carrySome ws).nCur = s.nCur := rfl
@[simp] theorem carrySome_scratch (ws : List Byte) : (s.carrySome ws).scratch = s.scratch := rfl
@[simp] theorem carrySome_bytes (ws : List Byte) : (s.carrySome ws).bytes = s.bytes := rfl
@[simp] theorem carrySome_cs (ws : List Byte) : (s.carrySome ws).cs = s.cs := rfl
@[simp] theorem carrySome_wire (ws : List Byte) : (s.carrySome ws).wire = s.wire ++ (bytesBits ws).take (Config.cutOfWrite s.draws) := rfl
@[simp] theorem carrySome_outstanding (ws : List Byte) : (s.carrySome ws).outstanding = s.outstanding := rfl
@[simp] theorem carrySome_trace (ws : List Byte) : (s.carrySome ws).trace = s.trace := rfl
@[simp] theorem carrySome_history (ws : List Byte) : (s.carrySome ws).history = s.history := rfl
@[simp] theorem carrySome_answers (ws : List Byte) : (s.carrySome ws).answers = s.answers := rfl
@[simp] theorem carrySome_program (ws : List Byte) : (s.carrySome ws).program = s.program := rfl
@[simp] theorem carrySome_resetLine (ws : List Byte) : (s.carrySome ws).resetLine = s.resetLine := rfl
@[simp] theorem carrySome_draws (ws : List Byte) : (s.carrySome ws).draws = s.draws + 1 := rfl

end Sys2Proof.Machine.State
end

