-- ==== Sys2Proof/Laws/Ops.lean ====
section
/-! SUPPORT. What each shared operation can do, said once. -/

namespace Sys2Proof.Machine

/-- All an emitted event can come to: it waits, or it draws the next answer. -/
theorem emit_cases {s t : State} {e : Event} {a : Option Answer} (h : s.emit e = (a, t)) :
    (s.answers = [] ∧ a = none ∧ t = { s with outstanding := some e }) ∨
    ∃ b rest, s.answers = b :: rest ∧ a = some b ∧
      t = { s with answers := rest, outstanding := none, trace := s.trace ++ [(e, b)] } := by
  unfold State.emit at h
  split at h <;> cases h
  · exact .inl ⟨‹_›, rfl, rfl⟩
  · exact .inr ⟨_, _, ‹_›, rfl, rfl⟩

/-- All the host can do in IDLE. -/
theorem hostMove_cases (s : State) :
    (s.program = [] ∧ s.hostMove = .quiet s) ∨
    (∃ later, s.program = [] :: later ∧ s.hostMove = .quiet { s with program := later }) ∨
    (∃ us acts later, s.program = (.waitUs us :: acts) :: later ∧
      s.hostMove = .quiet ({ s with program := acts :: later }.record (.waited us))) ∨
    ∃ r acts later, s.program = (.request r :: acts) :: later ∧
      s.hostMove = .issue r { s with program := acts :: later } := by
  unfold State.hostMove
  split
  · exact .inl ⟨‹_›, rfl⟩
  · exact .inr (.inl ⟨_, ‹_›, rfl⟩)
  · exact .inr (.inr (.inl ⟨_, _, _, ‹_›, rfl⟩))
  · exact .inr (.inr (.inr ⟨_, _, _, ‹_›, rfl⟩))

/-- All an advance can come to: the next block, or the end of the call. -/
theorem advance_cases (s : State) :
    (s.idx + s.nCur < s.bytes.length ∧
      s.advance = { s with idx := s.idx + s.nCur, nCur := blockSize s.bytes.length (s.idx + s.nCur),
                           phase := .select }) ∨
    (¬ s.idx + s.nCur < s.bytes.length ∧ s.advance = { s with idx := s.idx + s.nCur }.endCall .ok) := by
  unfold State.advance
  by_cases h : s.idx + s.nCur < s.bytes.length
  · exact .inl ⟨h, if_pos h⟩
  · exact .inr ⟨h, if_neg h⟩

/-- What a step is, phase by phase, when no block reset is asserted. -/
theorem step_of_phase {s : State} (h : s.resetLine = false) :
    step s = match s.phase with
      | .idle => stepHost s
      | .select => stepSelect s
      | .write => stepWrite s
      | .deselect => stepDeselect s := by
  unfold step
  rw [h]
  cases s.phase <;> rfl

/-- An opcode builder delivers its output byte and changes nothing else (40_command_encoder.md R110). -/
theorem exec_of_builderOutput {i : Instr} {op : Byte} (h : builderOutput i = some op) (s : State) :
    exec i s = .next (s.record (.opcode op)) := by
  cases i <;> simp only [builderOutput, Option.some.injEq, reduceCtorEq] at h <;> subst h <;> rfl

/-- Writing the same bytes to the scratch buffer twice is writing them once. -/
theorem writeScratch_twice (s : State) (out : List Byte) :
    (s.writeScratch out).writeScratch out = s.writeScratch out := by
  have h : ∀ k : Fin 9, out.getD k ((Vector.ofFn fun k : Fin 9 => out.getD k s.scratch[k])[k]) =
      out.getD k s.scratch[k] := by
    intro k
    by_cases hk : k.val < out.length <;> simp [hk]
  simp only [State.writeScratch, h]

/-- The first cells of the scratch buffer are what has just been written there. -/
theorem scratchCells_writeScratch (s : State) (out : List Byte) (h : out.length ≤ 9) :
    (s.writeScratch out).scratchCells out.length = out := by
  apply List.ext_getElem
  · simpa [State.scratchCells] using h
  · intro k _ hk
    simp [State.scratchCells, State.writeScratch, hk]

/-- The host drops no sequence and emits no event when a block reset finds the block in IDLE. -/
theorem abandonCall_idle {s : State} (h : s.phase = .idle) : s.abandonCall = s := by
  simp [State.abandonCall, h]

end Sys2Proof.Machine
end

