-- ==== Sys2Proof/Laws/Calls.lean ====
section
/-! SUPPORT. The blocks and the events of a call, by their index. -/

namespace Sys2Proof.Machine

theorem cutBlocks_getElem? (fuel : Nat) : ∀ (B : List Byte) (j : Nat), B.length ≤ fuel →
    (cutBlocks fuel B)[j]? = if 8 * j < B.length then some ((B.drop (8 * j)).take 8) else none := by
  induction fuel with
  | zero =>
    intro B j h
    have : B = [] := List.length_eq_zero_iff.mp (by omega)
    simp [this, cutBlocks]
  | succ fuel ih =>
    intro B j h
    cases B with
    | nil => simp [cutBlocks]
    | cons b bs =>
      cases j with
      | zero => simp [cutBlocks]
      | succ j =>
        have shift : 8 + 8 * j = 8 * (j + 1) := by omega
        simp only [cutBlocks, List.getElem?_cons_succ]
        rw [ih _ _ (by simp at h ⊢; omega)]
        simp only [List.length_drop, List.drop_drop, Config.blockMax, shift]
        by_cases hj : 8 * (j + 1) < (b :: bs).length
        · rw [if_pos (by omega), if_pos hj]
        · rw [if_neg (by omega), if_neg hj]

/-- Block `j` of a call is `B[8j .. 8j + 8)`, as far as `B` goes. -/
theorem blocks_getElem? (B : List Byte) (j : Nat) :
    (blocks B)[j]? = if 8 * j < B.length then some ((B.drop (8 * j)).take 8) else none :=
  cutBlocks_getElem? _ _ _ (Nat.le_refl _)

theorem flatMap_blockEvents_getElem? (c : Classification) (L : List (List Byte)) (j r : Nat) (hr : r < 3) :
    (L.flatMap (blockEvents c))[3 * j + r]? = (L[j]?).bind fun K => (blockEvents c K)[r]? := by
  induction L generalizing j with
  | nil => simp
  | cons K L ih =>
    cases j with
    | zero =>
      rw [List.flatMap_cons, List.getElem?_append_left (by simp [blockEvents]; omega)]
      simp
    | succ j =>
      have shift : 3 * (j + 1) + r - (blockEvents c K).length = 3 * j + r := by simp [blockEvents]; omega
      rw [List.flatMap_cons, List.getElem?_append_right (by simp [blockEvents]; omega), shift, ih]
      simp

/-- The events of the block at cursor `i` stand at `3·(i/8)` in the events of the call. -/
theorem callEvents_getElem? (c : Classification) (B : List Byte) (i r : Nat) (hr : r < 3) (hi : i < B.length)
    (h8 : i % 8 = 0) :
    (callEvents c B)[3 * (i / 8) + r]? = (blockEvents c ((B.drop i).take 8))[r]? := by
  have hi8 : 8 * (i / 8) = i := by omega
  rw [callEvents, flatMap_blockEvents_getElem? _ _ _ _ hr, blocks_getElem?, hi8, if_pos hi]
  rfl

/-- One more event answered `ok`. -/
theorem allOk_take_succ (es : List Event) (n : Nat) (e : Event) (h : es[n]? = some e) :
    allOk (es.take n) ++ [(e, .ok)] = allOk (es.take (n + 1)) := by
  simp [allOk, List.take_add_one, h]

/-- The current block of a call in progress, and its size. -/
theorem block_of_greedy {s : State} (h : s.nCur = blockSize s.bytes.length s.idx) :
    s.block = (s.bytes.drop s.idx).take 8 ∧ s.block.length = s.nCur := by
  constructor
  · rw [State.block, h, blockSize, List.take_eq_take_iff, List.length_drop]
    simp [Config.blockMax]
  · rw [State.block, h, blockSize]
    simp [Config.blockMax]

end Sys2Proof.Machine
end

