-- ==== Sys2Proof/Laws/Packing.lean ====
section
/-! SUPPORT. The bits of a byte and of a bit stream, one lemma per function of the packing. -/

namespace Sys2Proof

/-- The eight bits of a byte put together from bits. -/
theorem ofBools_getLsbD : ∀ b₀ b₁ b₂ b₃ b₄ b₅ b₆ b₇ : Bool,
    byteBits (BitVec.ofBool b₀ ++ BitVec.ofBool b₁ ++ BitVec.ofBool b₂ ++ BitVec.ofBool b₃ ++
      BitVec.ofBool b₄ ++ BitVec.ofBool b₅ ++ BitVec.ofBool b₆ ++ BitVec.ofBool b₇) =
    [b₀, b₁, b₂, b₃, b₄, b₅, b₆, b₇] := by decide

/-- The bits of a byte made from bits are those bits. -/
theorem byteBits_byteOfBits (f : Nat → Bool) : byteBits (byteOfBits f) = [f 0, f 1, f 2, f 3, f 4, f 5, f 6, f 7] :=
  ofBools_getLsbD _ _ _ _ _ _ _ _

/-- Bit `7 - m` of a byte made from bits is bit `m` of them. -/
theorem byteOfBits_getLsbD (f : Nat → Bool) (m : Nat) (h : m < 8) : (byteOfBits f).getLsbD (7 - m) = f m := by
  have all := byteBits_byteOfBits f
  simp only [byteBits, List.cons.injEq, and_true] at all
  obtain ⟨h₀, h₁, h₂, h₃, h₄, h₅, h₆, h₇⟩ := all
  have cases : m = 0 ∨ m = 1 ∨ m = 2 ∨ m = 3 ∨ m = 4 ∨ m = 5 ∨ m = 6 ∨ m = 7 := by omega
  rcases cases with rfl | rfl | rfl | rfl | rfl | rfl | rfl | rfl <;> assumption

@[simp] theorem byteBits_length (b : Byte) : (byteBits b).length = 8 := rfl

@[simp] theorem bytesBits_length (l : List Byte) : (bytesBits l).length = 8 * l.length := by
  induction l with
  | nil => rfl
  | cons b l ih => simp only [bytesBits, List.flatMap_cons, List.length_append, byteBits_length,
      List.length_cons] at ih ⊢; omega

@[simp] theorem bitStream_length (c : Classification) (K : List Byte) :
    (bitStream c K).length = 9 * K.length := by
  induction K with
  | nil => rfl
  | cons b K ih => simp only [bitStream, List.flatMap_cons, List.length_append, List.length_cons,
      byteBits_length] at ih ⊢; omega

@[simp] theorem pack_length (c : Classification) (K : List Byte) : (pack c K).length = outCount K.length := by
  simp [pack]

theorem ofBit_bit (c : Classification) : Classification.ofBit c.bit = c := by cases c <;> rfl

/-- Output byte `k` holds stream bit `8k + m` at bit `7 - m`. -/
theorem outByte_getLsbD (S : List Bool) (k m : Nat) (h : m < 8) :
    (outByte S k).getLsbD (7 - m) = S.getD (8 * k + m) false := byteOfBits_getLsbD _ m h

end Sys2Proof
end

