-- ==== Sys2Proof/Laws/PerInstr.lean ====
section
/-! SUPPORT. Statements made per instruction. -/

namespace Sys2Proof.Laws.FitsRow

/-- An operation encoded as an opcode byte is encoded as an output of a row of the opcode map
(spec/30_encoding.md R85). -/
def Statement (i : Instr) : Prop := ∀ op, encode i = .opcode op → ∃ r ∈ opcodeMap, r.matches op = true

/-- The byte decides whether some row matches it. -/
theorem of_any {op op' : Byte} (h : opcodeMap.any (·.matches op) = true) (e : Request.opcode op = .opcode op') :
    ∃ r ∈ opcodeMap, r.matches op' = true := by
  cases e
  simpa using h

theorem contrast (v : Byte) : Statement (.contrast v) := fun _ h => of_any (by clear h; revert v; decide) h
theorem line (v : Byte) : Statement (.line v) := fun _ h => of_any (by clear h; revert v; decide) h
theorem page (v : Byte) : Statement (.page v) := fun _ h => of_any (by clear h; revert v; decide) h
theorem colLo (v : Byte) : Statement (.colLo v) := fun _ h => of_any (by clear h; revert v; decide) h
theorem colHi (v : Byte) : Statement (.colHi v) := fun _ h => of_any (by clear h; revert v; decide) h
theorem reset : Statement .reset := fun _ h => of_any (by decide) h
theorem powerOn : Statement .powerOn := fun _ h => of_any (by decide) h
theorem powerOff : Statement .powerOff := fun _ h => of_any (by decide) h
theorem hflipOn : Statement .hflipOn := fun _ h => of_any (by decide) h
theorem hflipOff : Statement .hflipOff := fun _ h => of_any (by decide) h
theorem vflipOn : Statement .vflipOn := fun _ h => of_any (by decide) h
theorem vflipOff : Statement .vflipOff := fun _ h => of_any (by decide) h
theorem testOn : Statement .testOn := fun _ h => of_any (by decide) h
theorem testOff : Statement .testOff := fun _ h => of_any (by decide) h
theorem invertOn : Statement .invertOn := fun _ h => of_any (by decide) h
theorem invertOff : Statement .invertOff := fun _ h => of_any (by decide) h
theorem displayOn : Statement .displayOn := fun _ h => of_any (by decide) h
theorem displayOff : Statement .displayOff := fun _ h => of_any (by decide) h
theorem initSequence : Statement .initSequence := fun _ h => nomatch h
theorem setPosition (col row : Byte) : Statement (.setPosition col row) := fun _ h => nomatch h
theorem pack (c : Classification) (bytes : List Byte) : Statement (.pack c bytes) := fun _ h => nomatch h
theorem send (c : Classification) (bytes : List Byte) : Statement (.send c bytes) := fun _ h => nomatch h

end Sys2Proof.Laws.FitsRow
end

