-- ==== Sys2Proof/Tests/Slice0.lean ====
section
/-! SUPPORT. Tests with results from spec/95_test_vectors.md and the encodings of spec/30_encoding.md, the
smoke test of well-formedness, and a witness for each statement with hypotheses. -/

namespace Sys2Proof.Tests
open Sys2Proof.Machine

/-- The next state of a step, if there is one. -/
def next? (o : Host.Outcome State Fault Refusal) : Option State :=
  match o with
  | .next t => some t
  | .fault _ => none
  | .refused _ => none

/-- The last thing an operation delivered in the reset state. -/
def delivered (i : Instr) : Option Record := (next? (exec i State.reset)).bind (·.history.getLast?)

/-- The reset state with a program and the environment's answers. -/
def start (program : List (List HostAct)) (answers : List Answer) : State :=
  { State.reset with program := program, answers := answers }

/-! ## Well-formedness: an ill-formed term for each check -/

theorem test_wf_contrast : (Instr.contrast 32).wf = false := by decide
theorem test_wf_line : (Instr.line 64).wf = false := by decide
theorem test_wf_page : (Instr.page 16).wf = false := by decide
theorem test_wf_colLo : (Instr.colLo 16).wf = false := by decide
theorem test_wf_colHi_low : (Instr.colHi 0x1D).wf = false := by decide
theorem test_wf_colHi_top : (Instr.colHi 0x80).wf = false := by decide
theorem test_wf_setPosition_col : (Instr.setPosition 128 0).wf = false := by decide
theorem test_wf_setPosition_row : (Instr.setPosition 0 16).wf = false := by decide
theorem test_wf_pack_empty : (Instr.pack .data []).wf = false := by decide
theorem test_wf_pack_long : (Instr.pack .data [0, 0, 0, 0, 0, 0, 0, 0, 0]).wf = false := by decide

/-! ## Decoding: a word of each row, bit by bit from R81 and R85 -/

theorem test_decode_contrast : decodeTableWord 16 0b10011110 = some (.contrast 30) := by decide
theorem test_decode_line : decodeTableWord 16 0b01000101 = some (.line 5) := by decide
theorem test_decode_page : decodeTableWord 16 0b10111000 = some (.page 8) := by decide
theorem test_decode_colLo : decodeTableWord 16 0b00001101 = some (.colLo 13) := by decide
theorem test_decode_colHi : decodeTableWord 8 0b00010101 = some (.colHi 0b01010000) := by decide
theorem test_decode_reset : decodeTableWord 8 0b11100010 = some .reset := by decide
theorem test_decode_powerOn : decodeTableWord 8 0b00101111 = some .powerOn := by decide
theorem test_decode_powerOff : decodeTableWord 8 0b00101000 = some .powerOff := by decide
theorem test_decode_hflipOn : decodeTableWord 16 0b10100001 = some .hflipOn := by decide
theorem test_decode_hflipOff : decodeTableWord 16 0b10100000 = some .hflipOff := by decide
theorem test_decode_vflipOn : decodeTableWord 16 0b11001000 = some .vflipOn := by decide
theorem test_decode_vflipOff : decodeTableWord 16 0b11000000 = some .vflipOff := by decide
theorem test_decode_testOn : decodeTableWord 16 0b10100101 = some .testOn := by decide
theorem test_decode_testOff : decodeTableWord 16 0b10100100 = some .testOff := by decide
theorem test_decode_invertOn : decodeTableWord 16 0b10100111 = some .invertOn := by decide
theorem test_decode_invertOff : decodeTableWord 16 0b10100110 = some .invertOff := by decide
theorem test_decode_displayOn : decodeTableWord 24 0b10101111 = some .displayOn := by decide
theorem test_decode_displayOff : decodeTableWord 24 0b10101110 = some .displayOff := by decide
theorem test_decode_initSequence :
    decode (.sequence [0x2F, 0x9E, 0xA4, 0xA0, 0xC0, 0xA6, 0xAF, 0x00, 0x10, 0xB0]) = .ok .initSequence := by decide
theorem test_decode_setPosition : decodeTableWord 24 0b101101110001000000001101 = some (.setPosition 13 7) := by
  decide
theorem test_decode_pack :
    decode (.block [0b00000110, 0b10000100, 0b00010110, 0b11100000]) = .ok (.pack .command [0x0D, 0x10, 0xB7]) := by
  decide
theorem test_decode_pack_full :
    decode (.block [0x88, 0xC8, 0xA6, 0x74, 0x4A, 0xAD, 0x9A, 0xEF, 0x88]) =
      .ok (.pack .data [0x11, 0x22, 0x33, 0x44, 0x55, 0x66, 0x77, 0x88]) := by decide
theorem test_decode_send : decode (.call .command [0xE2]) = .ok (.send .command [0xE2]) := by decide

/-- R87: the bytes next to produced ones. -/
theorem test_decode_unproduced :
    [0x18, 0x27, 0x29, 0x2E, 0x30, 0x3F, 0xA2, 0xA3, 0xA8, 0xAD, 0xC1, 0xC7, 0xC9, 0xE1, 0xE3, 0xFF].all
      (fun op => decide (decodeTableWord 8 op = none)) = true := by decide
/-- R86: the ends of its ranges. -/
theorem test_decode_range_ends :
    [0x00, 0x0F, 0x10, 0x17, 0x40, 0x7F, 0x80, 0x9F, 0xB0, 0xBF].map (decodeTableWord 8) =
      [Instr.colLo 0, .colLo 15, .colHi 0, .colHi 0x70, .line 0, .line 63, .contrast 0, .contrast 31, .page 0,
        .page 15].map some := by decide
/-- A list of the right length that is no position sequence, and blocks with a wrong control bit, a pad bit
set, and a wrong length. -/
theorem test_decode_rejects :
    decode (.sequence [0x0D, 0x18, 0xB7]) = .error (.noSequence [0x0D, 0x18, 0xB7]) ∧
    decode (.block [0x55, 0x55, 0x40]) = .error (.noBlock [0x55, 0x55, 0x40]) ∧
    decode (.block [0x71, 0x01]) = .error (.noBlock [0x71, 0x01]) ∧
    decode (.block [0x71]) = .error (.noBlock [0x71]) := by decide

/-! ## Vectors of 95_test_vectors.md -/

/-- Section 2.1: the row of arguments 200 and 95 for the five builders. -/
theorem test_builders_200 :
    [Instr.contrast 200, .line 200, .page 200, .colLo 200, .colHi 200].map delivered =
      [0x88, 0x48, 0xB8, 0x08, 0x14].map fun op => some (.opcode op) := by decide
theorem test_builders_95 :
    [Instr.contrast 95, .line 95, .page 95, .colLo 95, .colHi 95].map delivered =
      [0x9F, 0x5F, 0xBF, 0x0F, 0x15].map fun op => some (.opcode op) := by decide
/-- Section 2.2. -/
theorem test_fixed :
    [Instr.reset, .powerOn, .powerOff, .hflipOn, .hflipOff, .vflipOn, .vflipOff, .testOn, .testOff, .invertOn,
      .invertOff, .displayOn, .displayOff].map delivered =
      [0xE2, 0x2F, 0x28, 0xA1, 0xA0, 0xC8, 0xC0, 0xA5, 0xA4, 0xA7, 0xA6, 0xAF, 0xAE].map
        fun op => some (.opcode op) := by decide
/-- Section 2.3. -/
theorem test_setPosition : delivered (.setPosition 45 3) = some (.opcodes [0x0D, 0x12, 0xB3]) := by decide
theorem test_initSequence :
    delivered .initSequence = some (.opcodes [0x2F, 0x9E, 0xA4, 0xA0, 0xC0, 0xA6, 0xAF, 0x00, 0x10, 0xB0]) := by
  decide
/-- Section 2.4: lengths 5, 6, 7 and 8, and the walk of the control bit. -/
theorem test_pack_5 : pack .command [0x0F, 0xF0, 0x3C, 0xC3, 0x99] = [0x07, 0xBC, 0x07, 0x8C, 0x34, 0xC8] := by decide
theorem test_pack_6 :
    pack .data [0xDE, 0xAD, 0xBE, 0xEF, 0x01, 0x23] = [0xEF, 0x6B, 0x77, 0xDE, 0xF8, 0x0C, 0x8C] := by decide
theorem test_pack_7 :
    pack .data [0x12, 0x34, 0x56, 0x78, 0x9A, 0xBC, 0xDE] = [0x89, 0x4D, 0x2A, 0xD7, 0x8C, 0xD6, 0xF3, 0xBC] := by
  decide
theorem test_pack_8 :
    pack .command [0x2F, 0x9E, 0xA4, 0xA0, 0xC0, 0xA6, 0xAF, 0x00] =
      [0x17, 0xA7, 0x94, 0x8A, 0x06, 0x02, 0x99, 0x5E, 0x00] := by decide
theorem test_packByBytes : packByBytes .data [0xFF, 0x81, 0x01] = [0xFF, 0xE0, 0x60, 0x20] := by decide
theorem test_packByNumber : packByNumber .data [0x80, 0x01, 0x80, 0x01] = [0xC0, 0x40, 0x70, 0x10, 0x10] := by decide
theorem test_unpack :
    unpack [0x06, 0x84, 0x16, 0xE0] =
      ([false, false, false], [0x0D, 0x10, 0xB7], [false, false, false, false, false]) := by decide
/-- R141: cells beyond `n` are not written. -/
theorem test_pack_scratch :
    (next? (exec (.pack .data [0xA5])
      { State.reset with scratch := #v[9, 9, 9, 9, 9, 9, 9, 9, 9] })).map (·.scratch) =
      some #v[0xD2, 0x80, 9, 9, 9, 9, 9, 9, 9] := by decide

/-- Section 2.6, the row `ok, fail`: the line stays low, the status is `COMM_FAIL`. -/
theorem test_write_fails :
    (next? (stepWrite { State.reset with
      phase := .write, cLat := .data, bytes := [0x19, 0x1A], nCur := 2, cs := .low, answers := [.fail],
      trace := [(.csLow, .ok)] })).map (fun t => (t.cs, t.phase, t.history)) =
    some (.low, .idle, [.returned [(.csLow, .ok), (.busWrite [0x8C, 0xC6, 0x80], .fail)] .commFail]) := by decide
/-- Section 2.6, first row. -/
theorem test_select_fails :
    (next? (stepSelect { State.reset with phase := .select, bytes := [0xE2], answers := [.fail] })).map
      (fun t => (t.cs, t.phase, t.history)) =
    some (.unknown, .idle, [.returned [(.csLow, .fail)] .commFail]) := by decide
/-- Section 2.5: the second block of a ten-byte call follows. -/
theorem test_deselect_advances :
    (next? (stepDeselect { State.reset with
      phase := .deselect, bytes := [0, 0, 0, 0, 0, 0, 0, 0, 0, 0], nCur := 8, cs := .low, answers := [.ok] })).map
      (fun t => (t.cs, t.phase, t.idx, t.nCur)) = some (.high, .select, 8, 2) := by decide
/-- R202: a reset after `CsLow` leaves the line unknown. -/
theorem test_blockReset_in_frame :
    (next? (step { State.reset with phase := .write, bytes := [0xE2], cs := .low, resetLine := true })).map
      (fun t => (t.cs, t.phase, t.idx)) = some (.unknown, .idle, 0) := by decide
/-- A word of the table, run as the first instruction after reset. -/
theorem test_fetchWord :
    (next? (step (State.reset.withFetchWord 24 0xB7100D))).map (·.history) = some [.opcodes [0x0D, 0x10, 0xB7]] := by
  decide
/-- R67: the pixel of bit 1 of line 2, byte 5. -/
theorem test_setPixel :
    ((setPixel (frameBufferNew 8 3) 5 17 true)[2]?).map (·.getD 5 0) = some 2 := by decide
theorem test_clearLine : getLine (clearLine (frameBufferNew 2 2) 1 7) 1 = some [7, 7] := by decide
theorem test_getLine_absent : getLine (clearBuffer (frameBufferNew 2 2) 1) 2 = none := by decide
/-- R90. -/
theorem test_codes : Status.ok.code = 0 ∧ Status.commFail.code = 1 ∧ Classification.data.bit = true := by decide

/-! ## Witnesses: a state and operands that meet the hypotheses of a statement together -/

/-- A call of ten data bytes in its first block, in a phase. -/
def midCall (p : Phase) (answers : List Answer) : State :=
  { State.reset with
    phase := p, cLat := .data, nCur := 8, bytes := [1, 2, 3, 4, 5, 6, 7, 8, 9, 10],
    cs := match p with
      | .idle | .select => .high
      | .write | .deselect => .low,
    trace := allOk ([.csLow, .busWrite [0x80, 0xC0, 0xA0, 0x70, 0x48, 0x2C, 0x1A, 0x0F, 0x08]].take p.eventsDone),
    answers := answers }

theorem midCall_inv (p : Phase) (answers : List Answer) (h : p ≠ .idle) : (midCall p answers).inv := by
  cases p with
  | idle => exact absurd rfl h
  | select | write | deselect =>
    exact ⟨by simp [midCall], by simp [midCall], by simp [midCall], by simp [midCall, State.reset],
      fun _ => ⟨by simp [midCall, State.reset], by simp [midCall, State.reset], rfl, by simp only [midCall]; decide⟩,
      by simp [State.lineMatches, midCall, State.reset]⟩

/-- The last block of the same call. -/
def lastBlock (answers : List Answer) : State :=
  { State.reset with
    phase := .deselect, cLat := .data, idx := 8, nCur := 2, bytes := [1, 2, 3, 4, 5, 6, 7, 8, 9, 10], cs := .low,
    trace := allOk [.csLow, .busWrite [0x80, 0xC0, 0xA0, 0x70, 0x48, 0x2C, 0x1A, 0x0F, 0x08], .csHigh, .csLow,
      .busWrite [0x84, 0xC2, 0x80]],
    answers := answers }

theorem lastBlock_inv (answers : List Answer) : (lastBlock answers).inv :=
  ⟨by simp [lastBlock], by simp [lastBlock], by simp [lastBlock], by simp [lastBlock, State.reset],
    fun _ => ⟨by simp [lastBlock], by simp [lastBlock], rfl, by simp only [lastBlock]; decide⟩,
    by simp [State.lineMatches, lastBlock]⟩

theorem reset_meets_inv : State.reset.inv :=
  ⟨by decide, by decide, fun _ => rfl, by simp [State.reset], fun h => absurd rfl h, by
    simp [State.lineMatches, State.reset]⟩

theorem witness_ContrastBuildsItsOpcode :
    ((40, 0x88) : Byte × Byte) ∈ [(0, 0x80), (31, 0x9F), (32, 0x80), (40, 0x88), (255, 0x9F), (30, 0x9E)] := by decide
theorem witness_LineBuildsItsOpcode :
    ((64, 0x40) : Byte × Byte) ∈ [(0, 0x40), (63, 0x7F), (64, 0x40), (255, 0x7F), (5, 0x45)] := by decide
theorem witness_PageBuildsItsOpcode : ((16, 0xB0) : Byte × Byte) ∈
    [(0, 0xB0), (8, 0xB8), (9, 0xB9), (15, 0xBF), (16, 0xB0), (255, 0xBF), (7, 0xB7)] := by decide
theorem witness_ColLoBuildsItsOpcode : ((95, 0x0F) : Byte × Byte) ∈
    [(0, 0x00), (15, 0x0F), (16, 0x00), (95, 0x0F), (255, 0x0F), (13, 0x0D)] := by decide
theorem witness_ColHiBuildsItsOpcode : ((128, 0x10) : Byte × Byte) ∈
    [(0, 0x10), (15, 0x10), (16, 0x11), (95, 0x15), (96, 0x16), (127, 0x17), (128, 0x10), (255, 0x17),
      (13, 0x10)] := by decide
theorem witness_FixedOpcodesBuildTheirBytes : ((Instr.displayOff, 0xAE) : Instr × Byte) ∈
    [(.powerOn, 0x2F), (.powerOff, 0x28), (.hflipOn, 0xA1), (.hflipOff, 0xA0), (.vflipOn, 0xC8),
      (.vflipOff, 0xC0), (.testOn, 0xA5), (.testOff, 0xA4), (.invertOn, 0xA7), (.invertOff, 0xA6),
      (.displayOn, 0xAF), (.displayOff, 0xAE)] := by decide
theorem witness_ResetByteIsAnOrdinaryByte :
    (start [] [.ok, .ok, .ok]).phase = .idle ∧ (start [] [.ok, .ok, .ok]).resetLine = false ∧
    (start [] [.ok, .ok, .ok]).answers = .ok :: .ok :: .ok :: [] := by decide
theorem witness_SetPositionIsThreeOpcodes : ((13, 7, [0x0D, 0x10, 0xB7]) : Byte × Byte × List Byte) ∈
    [(0, 0, [0x00, 0x10, 0xB0]), (95, 8, [0x0F, 0x15, 0xB8]), (255, 255, [0x0F, 0x17, 0xBF]),
      (128, 16, [0x00, 0x10, 0xB0]), (13, 7, [0x0D, 0x10, 0xB7])] := by decide
theorem witness_EncoderHasNoState : isEncoderOp (.setPosition 255 255) = true := by decide
theorem witness_SelectorMap : 18 ≤ (18#5).toNat ∧
    (start [[.request (.select 18 0)]] []).program = (.request (.select 18 0) :: []) :: [] ∧
    (start [[.request (.select 18 0)]] []).resetLine = false ∧
    (start [[.request (.select 18 0)]] []).phase = .idle := by decide
theorem witness_OpcodeMapInverse : (0x0F#8).toNat ≤ 0x0F ∧ 0x10 ≤ (0x10#8).toNat ∧ (0x17#8).toNat ≤ 0x17 ∧
    0x40 ≤ (0x40#8).toNat ∧ (0x7F#8).toNat ≤ 0x7F ∧ 0x80 ≤ (0x80#8).toNat ∧ (0x9F#8).toNat ≤ 0x9F ∧
    0xB0 ≤ (0xB0#8).toNat ∧ (0xBF#8).toNat ≤ 0xBF := by decide
theorem witness_UnproducedBytes : builderOutput (.contrast 30) = some 0x9E ∧ State.reset.phase = .idle := by decide
theorem witness_OrIsAdditionInBuilders : (95#8).toNat < 128 := by decide
theorem witness_ResultIsTheEncoding : encode (.page 7) = .opcode 0xB7 ∧
    encode (.setPosition 13 7) = .sequence [0x0D, 0x10, 0xB7] := by decide
theorem witness_DecodeOfEncode : [Instr.contrast 31, .colHi 0x70, .setPosition 127 15,
    .pack .data [1, 2, 3, 4, 5, 6, 7, 8], .send .command []].all Instr.wf = true := by decide
theorem witness_EncodeOfDecodedOpcode : decode (.opcode 0x17) = .ok (.colHi 0x70) := by decide
theorem witness_EncoderPorts : builderOutput .displayOff = some 0xAE ∧ encPort 17 0xFF = some 0xAE ∧
    decode (.select 17 0xFF) = .ok .displayOff ∧ (17#5).toNat < 18 := by decide
theorem witness_EncoderPorts_exec (s : State) :
    exec .displayOff s = .next { s with history := s.history ++ [.opcode 0xAE] } := rfl
theorem witness_StepRunsDecodedRequest :
    (start [[.request (.call .data [1])]] []).resetLine = false ∧ (start [[.request (.call .data [1])]] []).phase = .idle ∧
    (start [[.request (.call .data [1])]] []).program = (.request (.call .data [1]) :: []) :: [] ∧
    decode (.call .data [1]) = .ok (.send .data [1]) := by decide
theorem witness_IdleWaitsForACall : State.reset.resetLine = false ∧ State.reset.phase = .idle ∧
    State.reset.program = [] := by decide
theorem witness_HostMovesInIdle : (start [[]] []).resetLine = false ∧ (start [[]] []).phase = .idle ∧
    (start [[]] []).program = [] :: [] ∧ (start [[.waitUs 100]] []).resetLine = false ∧
    (start [[.waitUs 100]] []).phase = .idle ∧ (start [[.waitUs 100]] []).program = (.waitUs 100 :: []) :: [] := by
  decide
theorem witness_ArgumentsAreMaskedNotRejected : isEncoderOp (.contrast 255) = true := by decide
theorem witness_PackFollowsTheBitStream : 1 ≤ [(1 : Byte)].length ∧ [1, 2, 3, 4, 5, 6, 7, (8 : Byte)].length ≤ 8 ∧
    8 ≤ [(1 : Byte), 2, 3, 4, 5, 6, 7, 8].length := by decide
theorem witness_PackLengthLaw : 1 ≤ [(0xA5 : Byte)].length ∧ [(0xA5 : Byte)].length ≤ 8 := by decide
theorem witness_PackRefusesLongBlocks : 8 < [(1 : Byte), 2, 3, 4, 5, 6, 7, 8, 9].length := by decide
theorem witness_PackClosedForms : 1 ≤ [(0xDE : Byte), 0xAD].length ∧ [(0xDE : Byte), 0xAD].length ≤ 8 := by decide
theorem witness_UnpackInvertsPack : 1 ≤ [(0xE2 : Byte)].length ∧ [(0xE2 : Byte)].length ≤ 8 ∧
    pack .command [0xE2] = pack .command [0xE2] := by decide
theorem witness_PaddingAndWordPositions : 1 ≤ [(0xFF : Byte), 0, 1].length ∧ [(0xFF : Byte), 0, 1].length ≤ 8 ∧
    0 < 8 - [(0xFF : Byte), 0, 1].length ∧ 2 < [(0xFF : Byte), 0, 1].length := by decide
theorem witness_AcceptLatchesTheCall : State.reset.phase = .idle ∧ [(1 : Byte)] ≠ [] := by decide
theorem witness_EmptyCallDoesNothing : (start [] [.fail]).phase = .idle := by decide
theorem witness_SendOutsideIdleIsRefused : (midCall .write []).phase ≠ .idle := by decide
theorem witness_SelectStep : (midCall .select [.ok]).resetLine = false ∧ (midCall .select [.ok]).phase = .select ∧
    (midCall .select [.ok]).answers = .ok :: [] ∧ (midCall .select [.fail]).answers = .fail :: [] := by decide
theorem witness_WriteStep : (midCall .write [.fail]).inv ∧ (midCall .write [.ok]).inv ∧
    (midCall .write [.ok]).resetLine = false ∧ (midCall .write [.ok]).phase = .write ∧
    (midCall .write [.ok]).answers = .ok :: [] ∧ (midCall .write [.fail]).answers = .fail :: [] :=
  ⟨midCall_inv _ _ (by decide), midCall_inv _ _ (by decide), rfl, rfl, rfl, rfl⟩
theorem witness_DeselectStep : (midCall .deselect [.ok]).inv ∧ (midCall .deselect [.ok]).phase = .deselect ∧
    (midCall .deselect [.ok]).resetLine = false ∧ (midCall .deselect [.ok]).answers = .ok :: [] ∧
    (midCall .deselect [.ok]).idx + (midCall .deselect [.ok]).nCur < (midCall .deselect [.ok]).bytes.length :=
  ⟨midCall_inv _ _ (by decide), rfl, rfl, rfl, by decide⟩
theorem witness_DeselectStep_last : (lastBlock [.ok]).inv ∧ (lastBlock [.ok]).phase = .deselect ∧
    (lastBlock [.ok]).resetLine = false ∧ (lastBlock [.ok]).answers = .ok :: [] ∧
    (lastBlock [.fail]).answers = .fail :: [] ∧
    (lastBlock [.ok]).idx + (lastBlock [.ok]).nCur = (lastBlock [.ok]).bytes.length :=
  ⟨lastBlock_inv _, rfl, rfl, rfl, rfl, rfl⟩
theorem witness_SilentEnvironmentHangsTheCall : ∀ p ∈ [Phase.select, .write, .deselect],
    (midCall p []).inv ∧ (midCall p []).resetLine = false ∧ (midCall p []).phase ≠ .idle ∧
    (midCall p []).answers = [] := by
  intro p hp
  have h : p ≠ .idle := fun e => by subst e; simp at hp
  exact ⟨midCall_inv p [] h, rfl, h, rfl⟩
theorem witness_CommFailRaisedAtThreePoints : (midCall .select [.fail]).inv ∧
    ∃ t, step (midCall .select [.fail]) = .next t ∧
      t.history = (midCall .select [.fail]).history ++ [.returned [(.csLow, .fail)] .commFail] :=
  ⟨midCall_inv _ _ (by decide), _, rfl, rfl⟩
theorem witness_CommFailRaisedAtThreePoints_exec : ∃ t, exec (.send .data [1]) State.reset = .next t := ⟨_, rfl⟩
theorem witness_StateAfterCommFail : (midCall .write [.fail]).inv ∧
    ∃ t, step (midCall .write [.fail]) = .next t ∧
      t.history = (midCall .write [.fail]).history ++ [.returned
        [(.csLow, .ok), (.busWrite [0x80, 0xC0, 0xA0, 0x70, 0x48, 0x2C, 0x1A, 0x0F, 0x08], .fail)] .commFail] :=
  ⟨midCall_inv _ _ (by decide), _, rfl, by decide⟩
theorem witness_FailureEndsTheSequence : (midCall .deselect [.fail]).inv ∧
    (midCall .deselect [.fail]).resetLine = false ∧ (midCall .deselect [.fail]).phase ≠ .idle ∧
    ∃ t, step (midCall .deselect [.fail]) = .next t :=
  ⟨midCall_inv _ _ (by decide), rfl, by decide, _, rfl⟩
theorem witness_StepKeepsTheInvariant : (midCall .deselect [.ok]).inv ∧ ∃ t, step (midCall .deselect [.ok]) = .next t :=
  ⟨midCall_inv _ _ (by decide), _, rfl⟩
theorem witness_NoFaultUnderTheInvariant : (start [[.request (.select 31 0)]] []).inv ∧
    step (start [[.request (.select 31 0)]] []) = .refused (.undecodable (.reservedSelector 31)) :=
  ⟨reset_meets_inv, rfl⟩
theorem witness_BusWriteOnlyInsideAFrame : (midCall .write []).inv ∧
    (midCall .write []).nextEvent = some (.busWrite [0x80, 0xC0, 0xA0, 0x70, 0x48, 0x2C, 0x1A, 0x0F, 0x08]) :=
  ⟨midCall_inv _ _ (by decide), by decide⟩
theorem witness_SelectLineFollowsItsAnswers : (midCall .deselect [.ok]).resetLine = false ∧
    (∃ t, step (midCall .deselect [.ok]) = .next t) ∧ (midCall .deselect [.ok]).phase = .deselect ∧
    (midCall .deselect [.ok]).answers.head? = some .ok ∧ (midCall .select [.fail]).answers.head? = some .fail :=
  ⟨rfl, ⟨_, rfl⟩, rfl, rfl, rfl⟩
theorem witness_InstructionsEmitNoEvent : ∃ t, exec (.pack .data [1]) State.reset = .next t := ⟨_, rfl⟩
theorem witness_CursorOnlyAdvancesByBlocks : (midCall .deselect [.ok]).inv ∧
    (midCall .deselect [.ok]).resetLine = false ∧ (midCall .deselect [.ok]).phase ≠ .idle ∧
    ∃ t, step (midCall .deselect [.ok]) = .next t ∧ t.idx = 8 :=
  ⟨midCall_inv _ _ (by decide), rfl, by decide, _, rfl, rfl⟩
theorem witness_BlockResetAbandonsTheCall : { midCall .write [] with resetLine := true }.resetLine = true ∧
    { midCall .write [] with outstanding := some (.busWrite [1]) }.outstanding = some (.busWrite [1]) ∧
    ∀ ws, (midCall .write []).outstanding ≠ some (.busWrite ws) := by
  refine ⟨rfl, rfl, fun ws h => ?_⟩
  simp [midCall, State.reset] at h
theorem witness_StepsRunTheWholeCall : (start [] [.ok, .ok, .fail]).phase = .idle ∧
    (start [] [.ok, .ok, .fail]).resetLine = false ∧
    (sendWhole .data [1] (start [] [.ok, .ok, .fail]).answers .high).status = some .commFail := by decide
theorem witness_LineAfterACall : (start [] [.ok, .ok, .ok]).phase = .idle ∧
    (start [] [.ok, .ok, .ok]).resetLine = false ∧ [(1 : Byte)] ≠ [] ∧
    (sendWhole .data [1] (start [] [.ok, .ok, .ok]).answers .high).status = some .ok := by decide
theorem witness_CallWithoutAnswersStaysInProgress : (start [] [.ok]).phase = .idle ∧
    (start [] [.ok]).resetLine = false ∧ (sendWhole .data [1] (start [] [.ok]).answers .high).status = none := by decide
theorem witness_AnsweredCallsEnd : 3 * (([1, 2] : List Byte).length + 7) / 8 ≤ [Answer.ok, .ok, .ok].length ∧
    (sendWhole .data [1, 2] [.ok, .ok, .ok] .high).status = some .ok := by decide
theorem witness_BlocksAreGreedy : [1, 2, 3, 4, 5, 6, 7, (8 : Byte)] ∈ (blocks [1, 2, 3, 4, 5, 6, 7, 8, 9]).dropLast ∧
    (blocks [1, 2, 3, 4, 5, 6, 7, 8, 9]).getLast? = some [9] := by decide
theorem witness_CallCarriesItsBytes : [0x71, 0x00] ∈ busWrites (callEvents .command [0xE2]) := by decide
theorem witness_CallsAreIndependent : State.reset.phase = .idle ∧
    { State.reset with cs := .low, idx := 8 }.phase = .idle ∧ (start [] [.fail]).resetLine = false ∧
    (start [] [.fail]).answers = { start [] [.fail] with cs := .low, idx := 8 }.answers ∧
    (sendWhole .data [1] (start [] [.fail]).answers .high).status ≠ none := by decide
theorem witness_InitializeSendsItsFrames :
    (start [initializePanel] (List.replicate 9 .ok)).phase = .idle ∧
    (start [initializePanel] (List.replicate 9 .ok)).resetLine = false ∧
    (start [initializePanel] (List.replicate 9 .ok)).program = initializePanel :: [] ∧
    (start [initializePanel] (List.replicate 9 .ok)).answers = List.replicate 9 .ok ++ [] := by decide
theorem witness_SendBufferSendsEveryLine :
    (start [sendBuffer [[1], [2]]] (List.replicate 9 .ok)).phase = .idle ∧
    (start [sendBuffer [[1], [2]]] (List.replicate 9 .ok)).resetLine = false ∧
    (start [sendBuffer [[1], [2]]] (List.replicate 9 .ok)).program = sendBuffer [[1], [2]] :: [] ∧
    (∀ a ∈ (start [sendBuffer [[1], [2]]] (List.replicate 9 .ok)).answers, a = .ok) ∧
    3 + (([[1], [2]] : FrameBuffer).map fun l => 3 * ((l.length + 7) / 8)).sum ≤
      (start [sendBuffer [[1], [2]]] (List.replicate 9 .ok)).answers.length := by decide
theorem witness_SetPixelChangesOnePixel : (∃ l ∈ ([[0, 0]] : FrameBuffer)[3 / 8]?, 1 < l.length) ∧
    ((1, 4) : Nat × Nat) ≠ (1, 3) ∧ ¬ ∃ l ∈ ([[0, 0]] : FrameBuffer)[8 / 8]?, 1 < l.length := by decide

end Sys2Proof.Tests
end

section
/-! The rules of one step: what an operation, a move of the host, an event and an advance come to. -/

namespace Sys2Proof.Machine

/-! ## One event -/

/-- The state once event `e` has been answered with `a`, and `rest` are the answers still to come. -/
@[simps] def State.answered (s : State) (e : Event) (a : Answer) (rest : List Answer) : State :=
  { s with answers := rest, outstanding := none, trace := s.trace ++ [(e, a)] }

/-- The state with the current block packed into the scratch buffer. -/
@[simps] def State.packed (s : State) : State :=
  { s with scratch := (s.writeScratch (pack s.cLat s.block)).scratch }

theorem writeScratch_pack_block (s : State) : s.writeScratch (pack s.cLat s.block) = s.packed := rfl

@[simp] theorem carryAll_eq (s : State) (ws : List Byte) : s.carryAll ws = s.carry ws (8 * ws.length) := rfl

theorem emit_of_silence {s : State} (h : s.answers = []) (e : Event) :
    s.emit e = (none, { s with outstanding := some e }) := by
  simp [State.emit, h]

theorem emit_of_answer {s : State} {a : Answer} {rest : List Answer} (h : s.answers = a :: rest) (e : Event) :
    s.emit e = (some a, s.answered e a rest) := by
  simp [State.emit, h, State.answered]

/-! ## Select -/

section Select
variable {s : State} {rest : List Answer}

theorem stepSelect_silent (h : s.answers = []) : stepSelect s = .next { s with outstanding := some .csLow } := by
  simp [stepSelect, emit_of_silence h]

theorem stepSelect_ok (h : s.answers = .ok :: rest) :
    stepSelect s = .next { s.answered .csLow .ok rest with cs := .low, phase := .write } := by
  simp [stepSelect, emit_of_answer h]

theorem stepSelect_fail (h : s.answers = .fail :: rest) :
    stepSelect s = .next { s.answered .csLow .fail rest with cs := .unknown }.raiseCommFail := by
  simp [stepSelect, emit_of_answer h]

end Select

/-! ## Write -/

/-- The scratch cells a bus write sends are the packed block. -/
theorem scratchCells_packed {s : State} (h : 1 ≤ s.block.length ∧ s.block.length ≤ 8) :
    s.packed.scratchCells (s.block.length + 1) = pack s.cLat s.block := by
  have hlen : (pack s.cLat s.block).length = s.block.length + 1 := by
    simp only [pack_length, outCount, Config.wordBits, Config.busBits]
    omega
  rw [← hlen]
  exact scratchCells_writeScratch s _ (by omega)

section Write
variable {s : State} {rest : List Answer}

theorem block_of_stepWrite {t : State} (h : stepWrite s = .next t) :
    1 ≤ s.block.length ∧ s.block.length ≤ 8 := by
  by_contra hb
  simp [stepWrite, if_neg hb] at h

variable (hb : 1 ≤ s.block.length ∧ s.block.length ≤ 8)
include hb

theorem stepWrite_silent (h : s.answers = []) :
    stepWrite s = .next { s.packed with outstanding := some (.busWrite (pack s.cLat s.block)) } := by
  simp [stepWrite, if_pos hb, writeScratch_pack_block, scratchCells_packed hb, emit_of_silence (s := s.packed) h]

theorem stepWrite_ok (h : s.answers = .ok :: rest) :
    stepWrite s = .next { (s.packed.answered (.busWrite (pack s.cLat s.block)) .ok rest).carry
      (pack s.cLat s.block) (8 * (pack s.cLat s.block).length) with phase := .deselect } := by
  simp [stepWrite, if_pos hb, writeScratch_pack_block, scratchCells_packed hb, emit_of_answer (s := s.packed) h]

theorem stepWrite_fail (h : s.answers = .fail :: rest) :
    stepWrite s = .next ((s.packed.answered (.busWrite (pack s.cLat s.block)) .fail rest).carrySome
      (pack s.cLat s.block)).raiseCommFail := by
  simp [stepWrite, if_pos hb, writeScratch_pack_block, scratchCells_packed hb, emit_of_answer (s := s.packed) h]

end Write

/-! ## Deselect -/

section Deselect
variable {s : State} {rest : List Answer}

theorem stepDeselect_silent (h : s.answers = []) :
    stepDeselect s = .next { s with outstanding := some .csHigh } := by
  simp [stepDeselect, emit_of_silence h]

theorem stepDeselect_ok (h : s.answers = .ok :: rest) :
    stepDeselect s = .next { s.answered .csHigh .ok rest with cs := .high }.advance := by
  simp [stepDeselect, emit_of_answer h]

theorem stepDeselect_fail (h : s.answers = .fail :: rest) :
    stepDeselect s = .next { s.answered .csHigh .fail rest with cs := .unknown }.raiseCommFail := by
  simp [stepDeselect, emit_of_answer h]

end Deselect

/-! ## The operations -/

/-- An operation of the encoder delivers one and the same result in every state. -/
theorem exec_of_isEncoderOp {i : Instr} (hi : isEncoderOp i = true) : ∃ r, ∀ s, exec i s = .next (s.record r) := by
  cases hop : builderOutput i with
  | some op => exact ⟨.opcode op, exec_of_builderOutput hop⟩
  | none =>
    cases i with
    | initSequence => exact ⟨.opcodes opsInitSequence, fun _ => rfl⟩
    | setPosition col row => exact ⟨.opcodes (opsSetPosition col row), fun _ => rfl⟩
    | pack | send => cases hi
    | _ => cases hop

/-- All an operation that completes can do: deliver a result, pack a block, or accept a call in IDLE. -/
theorem exec_cases {i : Instr} {s t : State} (h : exec i s = .next t) :
    (∃ r, t = s.record r) ∨ (∃ out r, t = (s.writeScratch out).record r) ∨
    (∃ c B, i = .send c B ∧ s.phase = .idle ∧ t = s.accept c B) := by
  cases hi : isEncoderOp i with
  | true =>
    obtain ⟨r, hr⟩ := exec_of_isEncoderOp hi
    rw [hr] at h
    cases h
    exact .inl ⟨r, rfl⟩
  | false =>
    cases i with
    | pack c K =>
      simp only [exec, execPack] at h
      split at h <;> cases h
      exact .inr (.inl ⟨_, _, rfl⟩)
    | send c B =>
      simp only [exec, execSend] at h
      split at h <;> cases h
      exact .inr (.inr ⟨c, B, rfl, ‹_›, rfl⟩)
    | _ => cases hi

theorem exec_send_idle {s : State} (h : s.phase = .idle) (c : Classification) (B : List Byte) :
    exec (.send c B) s = .next (s.accept c B) := by
  simp [exec, execSend, h]

theorem accept_of_ne_nil (s : State) (c : Classification) {B : List Byte} (h : B ≠ []) :
    s.accept c B = { s with cLat := c, idx := 0, bytes := B, outstanding := none, trace := [],
                            nCur := blockSize B.length 0, phase := .select } := by
  simp [State.accept, h]

@[simp] theorem accept_cs (s : State) (c : Classification) (B : List Byte) : (s.accept c B).cs = s.cs := by
  unfold State.accept
  split <;> rfl

theorem exec_cs {i : Instr} {s t : State} (h : exec i s = .next t) : t.cs = s.cs := by
  obtain ⟨r, rfl⟩ | ⟨out, r, rfl⟩ | ⟨c, B, -, -, rfl⟩ := exec_cases h
  · rfl
  · rfl
  · exact accept_cs s c B

/-! ## The host -/

/-- All a step of the host can do: take acts from its program, have a wait recorded, or run an operation. -/
theorem stepHost_cases {s t : State} (h : stepHost s = .next t) :
    (∃ p, t = { s with program := p }) ∨ (∃ p r, t = { s with program := p }.record r) ∨
    (∃ p i, exec i { s with program := p } = .next t) := by
  obtain ⟨-, hm⟩ | ⟨later, -, hm⟩ | ⟨us, acts, later, -, hm⟩ | ⟨r, acts, later, -, hm⟩ := hostMove_cases s
  · rw [stepHost, hm] at h
    cases h
    exact .inl ⟨s.program, rfl⟩
  · rw [stepHost, hm] at h
    cases h
    exact .inl ⟨later, rfl⟩
  · rw [stepHost, hm] at h
    cases h
    exact .inr (.inl ⟨_, _, rfl⟩)
  · simp only [stepHost, hm] at h
    cases hd : decode r with
    | ok i => exact .inr (.inr ⟨_, i, by simpa [hd] using h⟩)
    | error why => simp [hd] at h

theorem stepHost_cs {s t : State} (h : stepHost s = .next t) : t.cs = s.cs := by
  obtain ⟨p, rfl⟩ | ⟨p, r, rfl⟩ | ⟨p, i, he⟩ := stepHost_cases h
  · rfl
  · rfl
  · rw [exec_cs he]

/-! ## The advance -/

@[simp] theorem advance_cs (s : State) : s.advance.cs = s.cs := by
  obtain ⟨-, h⟩ | ⟨-, h⟩ := advance_cases s <;> rw [h]
  rfl

/-! ## The step, by phase -/

section Phases
variable {s : State} (hr : s.resetLine = false)
include hr

theorem step_idle (hp : s.phase = .idle) : step s = stepHost s := by rw [step_of_phase hr, hp]
theorem step_select (hp : s.phase = .select) : step s = stepSelect s := by rw [step_of_phase hr, hp]
theorem step_write (hp : s.phase = .write) : step s = stepWrite s := by rw [step_of_phase hr, hp]
theorem step_deselect (hp : s.phase = .deselect) : step s = stepDeselect s := by rw [step_of_phase hr, hp]

end Phases

/-! ## The select line -/

section Line
variable {s t : State}

/-- The line after SELECT: low, `X`, or as it was, by the answer (10_state.md R27). -/
theorem stepSelect_cs (h : stepSelect s = .next t) :
    (s.answers.head? = some .ok → t.cs = .low) ∧ (s.answers.head? = some .fail → t.cs = .unknown) ∧
    (s.answers = [] → t.cs = s.cs) := by
  cases ha : s.answers with
  | nil => rw [stepSelect_silent ha] at h; cases h; simp
  | cons a rest =>
    cases a with
    | ok => rw [stepSelect_ok ha] at h; cases h; simp
    | fail => rw [stepSelect_fail ha] at h; cases h; simp

/-- The line after WRITE, whatever the answer. -/
theorem stepWrite_cs (h : stepWrite s = .next t) : t.cs = s.cs := by
  have hb := block_of_stepWrite h
  cases ha : s.answers with
  | nil => rw [stepWrite_silent hb ha] at h; cases h; simp
  | cons a rest =>
    cases a with
    | ok => rw [stepWrite_ok hb ha] at h; cases h; simp
    | fail => rw [stepWrite_fail hb ha] at h; cases h; simp

/-- The line after DESELECT: high, `X`, or as it was, by the answer (R27). -/
theorem stepDeselect_cs (h : stepDeselect s = .next t) :
    (s.answers.head? = some .ok → t.cs = .high) ∧ (s.answers.head? = some .fail → t.cs = .unknown) ∧
    (s.answers = [] → t.cs = s.cs) := by
  cases ha : s.answers with
  | nil => rw [stepDeselect_silent ha] at h; cases h; simp
  | cons a rest =>
    cases a with
    | ok => rw [stepDeselect_ok ha] at h; cases h; simp
    | fail => rw [stepDeselect_fail ha] at h; cases h; simp

end Line

end Sys2Proof.Machine
end

section
/-! The invariant of `Safety.lean`, phase by phase. -/

namespace Sys2Proof.Machine

/-- In IDLE the invariant says only this. -/
theorem inv_iff_of_idle {s : State} (hp : s.phase = .idle) :
    s.inv ↔ 1 ≤ s.nCur ∧ s.nCur ≤ 8 ∧ s.trace = [] ∧ s.outstanding = none := by
  simp [State.inv, State.lineMatches, State.nextEvent, hp, Option.eq_none_iff_forall_ne_some]

/-- During a call the bounds of the block size follow from the greedy block. -/
theorem inv_iff_of_call {s : State} (hp : s.phase ≠ .idle) :
    s.inv ↔ s.inCall ∧ (∀ e, s.outstanding = some e → s.nextEvent = some e) ∧ s.lineMatches := by
  constructor
  · rintro ⟨-, -, -, ho, hc, hl⟩
    exact ⟨hc hp, ho, hl⟩
  · rintro ⟨hc, ho, hl⟩
    obtain ⟨hlt, -, hn, -⟩ := id hc
    simp only [blockSize, Config.blockMax] at hn
    exact ⟨by omega, by omega, fun h => absurd h hp, ho, fun _ => hc, hl⟩

section Kept
variable {s : State}

theorem nCur_bounds (h : s.inv) : 1 ≤ s.nCur ∧ s.nCur ≤ 8 := by
  obtain ⟨h1, h8, -⟩ := h
  exact ⟨h1, h8⟩

/-- The invariant says nothing of the host's program, the record or the scratch buffer. -/
theorem inv_program (h : s.inv) (p : List (List HostAct)) : { s with program := p }.inv := h
theorem inv_record (h : s.inv) (r : Record) : (s.record r).inv := h
theorem inv_writeScratch (h : s.inv) (out : List Byte) : (s.writeScratch out).inv := h

/-- A waiting call keeps the invariant: what it waits for is its own next event. -/
theorem inv_waiting (h : s.inv) {e : Event} (he : s.nextEvent = some e) : { s with outstanding := some e }.inv := by
  obtain ⟨h1, h8, ht, -, hc, hl⟩ := h
  exact ⟨h1, h8, ht, by rintro _ ⟨⟩; exact he, hc, hl⟩

/-- The end of a call, whatever its status, keeps the bounds of the block size and leaves nothing open. -/
theorem inv_endCall (hn : 1 ≤ s.nCur ∧ s.nCur ≤ 8) (st : Status) : (s.endCall st).inv :=
  (inv_iff_of_idle rfl).mpr ⟨hn.1, hn.2, rfl, rfl⟩

theorem inv_raiseCommFail (hn : 1 ≤ s.nCur ∧ s.nCur ≤ 8) : s.raiseCommFail.inv :=
  inv_program (inv_endCall hn .commFail) _

theorem inv_blockReset (s : State) : s.blockReset.inv := by
  refine (inv_iff_of_idle rfl).mpr ⟨?_, ?_, rfl, rfl⟩
  · simp [State.blockReset]
  · simp only [State.blockReset]; omega

/-- An accepted call begins at its first block with an empty trace, whatever the state was. -/
theorem inv_accept_of_ne_nil (s : State) (c : Classification) {B : List Byte} (hB : B ≠ []) :
    (s.accept c B).inv := by
  have hlen := List.length_pos_iff.mpr hB
  rw [accept_of_ne_nil s c hB]
  refine (inv_iff_of_call (by simp)).mpr ⟨⟨hlen, rfl, rfl, ?_⟩, by simp, ?_⟩
  · simp [allOk, Phase.eventsDone]
  · simp [State.lineMatches]

theorem inv_accept (h : s.inv) (c : Classification) (B : List Byte) : (s.accept c B).inv := by
  by_cases hB : B = []
  · obtain ⟨h1, h8, -⟩ := h
    rw [hB]
    exact (inv_iff_of_idle rfl).mpr ⟨h1, h8, rfl, rfl⟩
  · exact inv_accept_of_ne_nil s c hB

theorem inv_exec {i : Instr} {t : State} (h : s.inv) (he : exec i s = .next t) : t.inv := by
  obtain ⟨r, rfl⟩ | ⟨out, r, rfl⟩ | ⟨c, B, -, -, rfl⟩ := exec_cases he
  · exact inv_record h r
  · exact inv_record (inv_writeScratch h out) r
  · exact inv_accept h c B

theorem inv_stepHost {t : State} (h : s.inv) (hs : stepHost s = .next t) : t.inv := by
  obtain ⟨p, rfl⟩ | ⟨p, r, rfl⟩ | ⟨p, i, he⟩ := stepHost_cases hs
  · exact inv_program h p
  · exact inv_record (inv_program h p) r
  · exact inv_exec (inv_program h p) he

end Kept

/-! ## A call in progress -/

section Call
variable {s t : State}

theorem nextEvent_of_select (hp : s.phase = .select) : s.nextEvent = some .csLow := by
  simp [State.nextEvent, hp]

theorem nextEvent_of_write (hp : s.phase = .write) : s.nextEvent = some (.busWrite (pack s.cLat s.block)) := by
  simp [State.nextEvent, hp]

theorem nextEvent_of_deselect (hp : s.phase = .deselect) : s.nextEvent = some .csHigh := by
  simp [State.nextEvent, hp]

/-- The event a call issues next is the next one of its frames. -/
theorem callEvents_nextEvent (hc : s.inCall) (hp : s.phase ≠ .idle) :
    (callEvents s.cLat s.bytes)[3 * (s.idx / 8) + s.phase.eventsDone]? = s.nextEvent := by
  obtain ⟨hlt, h8, hn, -⟩ := hc
  have hr : s.phase.eventsDone < 3 := by cases s.phase <;> decide
  rw [callEvents_getElem? _ _ _ _ hr hlt h8, ← (block_of_greedy hn).1, State.nextEvent]
  cases hph : s.phase with
  | idle => exact absurd hph hp
  | select | write | deselect => rfl

/-- With its next event answered `ok`, the trace of a call is one event further into its frames. -/
theorem trace_append_ok (hc : s.inCall) (hp : s.phase ≠ .idle) {e : Event} (he : s.nextEvent = some e) :
    s.trace ++ [(e, Answer.ok)] =
      allOk ((callEvents s.cLat s.bytes).take (3 * (s.idx / 8) + s.phase.eventsDone + 1)) := by
  have hev := (callEvents_nextEvent hc hp).trans he
  obtain ⟨-, -, -, ht⟩ := hc
  rw [ht, allOk_take_succ _ _ _ hev]

/-- A call whose next event has been answered `ok` is in progress one event further on in the same block. -/
theorem inCall_of_ok (hc : s.inCall) (hp : s.phase ≠ .idle) {e : Event} (he : s.nextEvent = some e)
    (hcall : t.cLat = s.cLat ∧ t.bytes = s.bytes) (hblock : t.idx = s.idx ∧ t.nCur = s.nCur)
    (htrace : t.trace = s.trace ++ [(e, .ok)]) (hdone : t.phase.eventsDone = s.phase.eventsDone + 1) : t.inCall := by
  have ht := trace_append_ok hc hp he
  obtain ⟨hlt, hmod, hgr, -⟩ := hc
  simp only [State.inCall, hcall, hblock, htrace, hdone, ht]
  exact ⟨hlt, hmod, hgr, rfl⟩

/-- The block of a call in progress holds 1 to 8 bytes. -/
theorem block_length_of_inCall (hc : s.inCall) : 1 ≤ s.block.length ∧ s.block.length ≤ 8 := by
  obtain ⟨hlt, -, hn, -⟩ := hc
  rw [(block_of_greedy hn).2, hn, blockSize, Config.blockMax]
  omega

/-- Advancing from a block whose frame is complete leaves the call at its next block, or ended. -/
theorem inv_advance (hlt : s.idx < s.bytes.length) (hmod : s.idx % 8 = 0)
    (hn : s.nCur = blockSize s.bytes.length s.idx) (ho : s.outstanding = none) (hcs : s.cs = .high)
    (ht : s.trace = allOk ((callEvents s.cLat s.bytes).take (3 * (s.idx / 8) + 3))) : s.advance.inv := by
  rw [blockSize, Config.blockMax] at hn
  obtain ⟨hnext, hadv⟩ | ⟨-, hadv⟩ := advance_cases s
  · have hfull : s.nCur = 8 := by omega
    have hframes : 3 * ((s.idx + s.nCur) / 8) = 3 * (s.idx / 8) + 3 := by omega
    rw [hadv]
    refine (inv_iff_of_call (by simp)).mpr ⟨⟨hnext, ?_, rfl, ?_⟩, by simp [ho], by simp [State.lineMatches, hcs]⟩
    · simp only; omega
    · simp [Phase.eventsDone, hframes, ht]
  · rw [hadv]
    exact (inv_iff_of_idle rfl).mpr ⟨by simp; omega, by simp; omega, rfl, rfl⟩

theorem inv_stepSelect (h : s.inv) (hp : s.phase = .select) (hs : stepSelect s = .next t) : t.inv := by
  have hne : s.phase ≠ .idle := by simp [hp]
  have he := nextEvent_of_select hp
  have hn := nCur_bounds h
  cases ha : s.answers with
  | nil => rw [stepSelect_silent ha] at hs; cases hs; exact inv_waiting h he
  | cons a rest =>
    cases a with
    | fail => rw [stepSelect_fail ha] at hs; cases hs; exact inv_raiseCommFail (by simpa using hn)
    | ok =>
      rw [stepSelect_ok ha] at hs
      cases hs
      obtain ⟨hc, -, -⟩ := (inv_iff_of_call hne).mp h
      exact (inv_iff_of_call (by simp)).mpr ⟨inCall_of_ok hc hne he (by simp) (by simp) (by simp)
        (by simp [hp, Phase.eventsDone]), by simp, by simp [State.lineMatches]⟩

theorem inv_stepWrite (h : s.inv) (hp : s.phase = .write) (hs : stepWrite s = .next t) : t.inv := by
  have hne : s.phase ≠ .idle := by simp [hp]
  have he := nextEvent_of_write hp
  have hb := block_of_stepWrite hs
  have hn := nCur_bounds h
  cases ha : s.answers with
  | nil => rw [stepWrite_silent hb ha] at hs; cases hs; exact inv_waiting (s := s.packed) (inv_writeScratch h _) he
  | cons a rest =>
    cases a with
    | fail => rw [stepWrite_fail hb ha] at hs; cases hs; exact inv_raiseCommFail (by simpa using hn)
    | ok =>
      rw [stepWrite_ok hb ha] at hs
      cases hs
      obtain ⟨hc, -, hl⟩ := (inv_iff_of_call hne).mp h
      exact (inv_iff_of_call (by simp)).mpr ⟨inCall_of_ok hc hne he (by simp) (by simp) (by simp)
        (by simp [hp, Phase.eventsDone]), by simp, by simpa [State.lineMatches, hp] using hl⟩

theorem inv_stepDeselect (h : s.inv) (hp : s.phase = .deselect) (hs : stepDeselect s = .next t) : t.inv := by
  have hne : s.phase ≠ .idle := by simp [hp]
  have he := nextEvent_of_deselect hp
  have hn := nCur_bounds h
  cases ha : s.answers with
  | nil => rw [stepDeselect_silent ha] at hs; cases hs; exact inv_waiting h he
  | cons a rest =>
    cases a with
    | fail => rw [stepDeselect_fail ha] at hs; cases hs; exact inv_raiseCommFail (by simpa using hn)
    | ok =>
      rw [stepDeselect_ok ha] at hs
      cases hs
      obtain ⟨hc, -, -⟩ := (inv_iff_of_call hne).mp h
      have ht := trace_append_ok hc hne he
      obtain ⟨hlt, hmod, hgr, -⟩ := hc
      exact inv_advance hlt hmod hgr rfl rfl (by simpa [hp, Phase.eventsDone] using ht)

theorem inv_step (h : s.inv) (hs : step s = .next t) : t.inv := by
  cases hr : s.resetLine with
  | true =>
    rw [step, if_pos hr] at hs
    cases hs
    exact inv_blockReset s
  | false =>
    cases hp : s.phase with
    | idle => exact inv_stepHost h (step_idle hr hp ▸ hs)
    | select => exact inv_stepSelect h hp (step_select hr hp ▸ hs)
    | write => exact inv_stepWrite h hp (step_write hr hp ▸ hs)
    | deselect => exact inv_stepDeselect h hp (step_deselect hr hp ▸ hs)

end Call

end Sys2Proof.Machine
end

section
/-! A call from its acceptance to its return: how far it is in its frames, and what each answer does. -/

namespace Sys2Proof.Machine

/-! ## The frames of a call -/

@[simp] theorem blocks_length (B : List Byte) : (blocks B).length = (B.length + 7) / 8 := by
  apply Nat.le_antisymm
  · rw [← List.getElem?_eq_none_iff, blocks_getElem?, if_neg (by omega)]
  · by_contra hlt
    have hnone : (blocks B)[(blocks B).length]? = none := List.getElem?_eq_none (Nat.le_refl _)
    rw [blocks_getElem?, if_pos (by omega)] at hnone
    cases hnone

theorem flatMap_blockEvents_length (c : Classification) (L : List (List Byte)) :
    (L.flatMap (blockEvents c)).length = 3 * L.length := by
  induction L with
  | nil => rfl
  | cons K L ih =>
    rw [List.flatMap_cons, List.length_append, ih, blockEvents, List.length_cons]
    simp only [List.length_cons, List.length_nil]
    omega

theorem callEvents_length (c : Classification) (B : List Byte) :
    (callEvents c B).length = 3 * ((B.length + 7) / 8) := by
  rw [callEvents, flatMap_blockEvents_length, blocks_length]

@[simp] theorem allOk_length (es : List Event) : (allOk es).length = es.length := by simp [allOk]

section Position
variable {s : State}

theorem nextEvent_ne_none (hp : s.phase ≠ .idle) : s.nextEvent ≠ none := by
  cases h : s.phase with
  | idle => exact absurd h hp
  | select | write | deselect => simp [State.nextEvent, h]

/-- How many events of its frames a call has behind it, and that one more is left. -/
theorem trace_length_of_inCall (hc : s.inCall) (hp : s.phase ≠ .idle) :
    s.trace.length = 3 * (s.idx / 8) + s.phase.eventsDone ∧ s.trace.length < (callEvents s.cLat s.bytes).length := by
  have hsome : s.nextEvent ≠ none := nextEvent_ne_none hp
  rw [← callEvents_nextEvent hc hp, ne_eq, List.getElem?_eq_none_iff] at hsome
  obtain ⟨-, -, -, ht⟩ := hc
  rw [ht, allOk_length, List.length_take]
  omega

/-- The event a call issues next is the one at the length of its trace. -/
theorem callEvents_trace_length (hc : s.inCall) (hp : s.phase ≠ .idle) :
    (callEvents s.cLat s.bytes)[s.trace.length]? = s.nextEvent := by
  rw [(trace_length_of_inCall hc hp).1, callEvents_nextEvent hc hp]

theorem trace_of_inCall (hc : s.inCall) (hp : s.phase ≠ .idle) :
    s.trace = allOk ((callEvents s.cLat s.bytes).take s.trace.length) := by
  have hlen := (trace_length_of_inCall hc hp).1
  obtain ⟨-, -, -, ht⟩ := hc
  rw [hlen, ← ht]

end Position

/-! ## The call as a whole -/

/-- The line a failed event leaves: a bus write leaves it low, a pin request unknown (10_state.md R27). -/
def Event.lineAfterFail : Event → Level
  | .busWrite _ => .low
  | .csLow | .csHigh => .unknown

/-- A list of answers holds `ok` at the first `N` places, or a first `fail` before, or ends before. -/
theorem answers_cases (N : Nat) (ans : List Answer) :
    (∃ rest, ans = List.replicate N Answer.ok ++ rest) ∨
    (∃ n rest, n < N ∧ ans = List.replicate n Answer.ok ++ Answer.fail :: rest) ∨
    (∃ n, n < N ∧ ans = List.replicate n Answer.ok) := by
  induction N generalizing ans with
  | zero => exact .inl ⟨ans, rfl⟩
  | succ N ih =>
    match ans with
    | [] => exact .inr (.inr ⟨0, by omega, rfl⟩)
    | .fail :: rest => exact .inr (.inl ⟨0, rest, by omega, rfl⟩)
    | .ok :: ans =>
      obtain ⟨rest, rfl⟩ | ⟨n, rest, hn, rfl⟩ | ⟨n, hn, rfl⟩ := ih ans
      · exact .inl ⟨rest, rfl⟩
      · exact .inr (.inl ⟨n + 1, rest, by omega, rfl⟩)
      · exact .inr (.inr ⟨n + 1, by omega, rfl⟩)

section Loop
variable (c : Classification)

theorem sendBlocks_oks (L : List (List Byte)) (rest : List Answer) (cs : Level) :
    sendBlocks c L (List.replicate (3 * L.length) Answer.ok ++ rest) cs =
      ⟨allOk (L.flatMap (blockEvents c)), some .ok, rest, if L = [] then cs else .high⟩ := by
  induction L generalizing cs with
  | nil => rfl
  | cons K L ih =>
    have h3 : 3 * (K :: L).length = 3 * L.length + 1 + 1 + 1 := by simp; omega
    rw [h3]
    simp [List.replicate_succ, sendBlocks, ih, CallResult.after, allOk]

theorem sendBlocks_fail (L : List (List Byte)) (n : Nat) (e : Event) (rest : List Answer) (cs : Level)
    (he : (L.flatMap (blockEvents c))[n]? = some e) :
    sendBlocks c L (List.replicate n Answer.ok ++ Answer.fail :: rest) cs =
      ⟨allOk ((L.flatMap (blockEvents c)).take n) ++ [(e, Answer.fail)], some .commFail, rest, e.lineAfterFail⟩ := by
  induction L generalizing n cs with
  | nil => simp at he
  | cons K L ih =>
    match n with
    | 0 | 1 | 2 =>
      simp only [List.flatMap_cons, blockEvents, List.cons_append, List.getElem?_cons_succ, List.getElem?_cons_zero,
        Option.some.injEq] at he
      subst he
      rfl
    | n + 3 =>
      have hn : (L.flatMap (blockEvents c))[n]? = some e := by simpa [blockEvents] using he
      simp [List.replicate_succ, sendBlocks, ih n .high hn, CallResult.after, allOk, blockEvents]

theorem sendBlocks_silent (L : List (List Byte)) (n : Nat) (cs : Level) (hn : n < 3 * L.length) :
    (sendBlocks c L (List.replicate n Answer.ok) cs).status = none := by
  induction L generalizing n cs with
  | nil => simp at hn
  | cons K L ih =>
    match n with
    | 0 | 1 | 2 => rfl
    | n + 3 => exact ih n .high (by simp at hn; omega)

end Loop

/-- All a whole call can come to: every event answered `ok`, a first one answered `fail`, or silence before
the end. -/
theorem sendWhole_cases (c : Classification) (B : List Byte) (ans : List Answer) :
    (∃ rest, ans = List.replicate (callEvents c B).length Answer.ok ++ rest ∧
      ∀ cs, sendWhole c B ans cs = ⟨allOk (callEvents c B), some .ok, rest, if B = [] then cs else .high⟩) ∨
    (∃ n e rest, (callEvents c B)[n]? = some e ∧ ans = List.replicate n Answer.ok ++ Answer.fail :: rest ∧
      ∀ cs, sendWhole c B ans cs =
        ⟨allOk ((callEvents c B).take n) ++ [(e, Answer.fail)], some .commFail, rest, e.lineAfterFail⟩) ∨
    ∀ cs, (sendWhole c B ans cs).status = none := by
  have hlen : (callEvents c B).length = 3 * (blocks B).length :=
    flatMap_blockEvents_length c _
  have hnil : blocks B = [] ↔ B = [] := by
    rw [← List.length_eq_zero_iff, ← List.length_eq_zero_iff (l := B), blocks_length]; omega
  obtain ⟨rest, rfl⟩ | ⟨n, rest, hn, rfl⟩ | ⟨n, hn, rfl⟩ := answers_cases (callEvents c B).length ans
  · refine .inl ⟨rest, rfl, fun cs => ?_⟩
    rw [hlen, sendWhole, sendBlocks_oks, callEvents]
    simp only [hnil]
  · have he := List.getElem?_eq_getElem hn
    exact .inr (.inl ⟨n, _, rest, he, rfl, fun cs => sendBlocks_fail c _ n _ rest cs he⟩)
  · exact .inr (.inr fun cs => sendBlocks_silent c _ n cs (by omega))

/-! ## The steps of a call -/

/-- State `s` is in the call `c, B` that was accepted in `s₀`. -/
structure Calling (s₀ : State) (c : Classification) (B : List Byte) (s : State) : Prop where
  inv : s.inv
  running : s.phase ≠ .idle
  resetLine : s.resetLine = false
  cLat : s.cLat = c
  bytes : s.bytes = B
  history : s.history = s₀.history
  program : s.program = s₀.program

/-- State `u` is back in IDLE from a call that was accepted in `s₀` and came to `r` with status `st`. -/
structure Returned (s₀ : State) (r : CallResult) (st : Status) (u : State) : Prop where
  phase : u.phase = .idle
  outstanding : u.outstanding = none
  trace : u.trace = []
  history : u.history = s₀.history ++ [.returned r.trace st]
  answers : u.answers = r.answers
  cs : u.cs = r.cs
  program : u.program = if st = .ok then s₀.program else s₀.program.tail

theorem calling_accept {s : State} (hr : s.resetLine = false) (c : Classification) {B : List Byte} (hB : B ≠ []) :
    Calling s c B (s.accept c B) ∧ (s.accept c B).trace = [] ∧ (s.accept c B).answers = s.answers := by
  have hinv := inv_accept_of_ne_nil s c hB
  rw [accept_of_ne_nil s c hB] at hinv ⊢
  exact ⟨⟨hinv, by simp, hr, rfl, rfl, rfl, rfl⟩, rfl, rfl⟩

section Steps
variable {s₀ s : State} {c : Classification} {B : List Byte} {rest : List Answer} (h : Calling s₀ c B s)
include h

theorem Calling.inCall : s.inCall := ((inv_iff_of_call h.running).mp h.inv).1

theorem Calling.trace_length_lt : s.trace.length < (callEvents c B).length := by
  have hlt := (trace_length_of_inCall h.inCall h.running).2
  rwa [h.cLat, h.bytes] at hlt

theorem Calling.nextEvent : (callEvents c B)[s.trace.length]? = s.nextEvent := by
  rw [← h.cLat, ← h.bytes, callEvents_trace_length h.inCall h.running]

/-- With the next event answered `ok` the call is one event further, or it was the last event and the call has
returned `OK`. -/
theorem Calling.step_ok (ha : s.answers = .ok :: rest) :
    ∃ t, step s = .next t ∧
      ((Calling s₀ c B t ∧ t.trace.length = s.trace.length + 1 ∧ t.answers = rest) ∨
       (s.trace.length + 1 = (callEvents c B).length ∧
        Returned s₀ ⟨allOk (callEvents c B), some .ok, rest, .high⟩ .ok t)) := by
  obtain ⟨hinv, hne, hr, rfl, rfl, hh, hpr⟩ := id h
  have hc := h.inCall
  cases hp : s.phase with
  | idle => exact absurd hp hne
  | select =>
    have hs := (step_select hr hp).trans (stepSelect_ok ha)
    exact ⟨_, hs, .inl ⟨⟨inv_step hinv hs, by simp, hr, by simp, by simp, hh, hpr⟩, by simp, by simp⟩⟩
  | write =>
    have hs := (step_write hr hp).trans (stepWrite_ok (block_length_of_inCall hc) ha)
    exact ⟨_, hs, .inl ⟨⟨inv_step hinv hs, by simp, by simpa using hr, by simp, by simp, by simpa using hh,
      by simpa using hpr⟩, by simp, by simp⟩⟩
  | deselect =>
    have hs := (step_deselect hr hp).trans (stepDeselect_ok ha)
    have hpos := (trace_length_of_inCall hc hne).1
    have htr := trace_append_ok hc hne (nextEvent_of_deselect hp)
    rw [← hpos] at htr
    refine ⟨_, hs, ?_⟩
    obtain ⟨-, hadv⟩ | ⟨hend, hadv⟩ := advance_cases { s.answered .csHigh .ok rest with cs := .high }
    · have hinv' := inv_step hinv hs
      rw [hadv] at hinv' ⊢
      exact .inl ⟨⟨hinv', by simp, hr, rfl, rfl, hh, hpr⟩, by simp, rfl⟩
    · obtain ⟨hlt, hmod, hgr, -⟩ := hc
      simp only [State.answered_idx, State.answered_nCur, State.answered_bytes] at hend
      rw [blockSize, Config.blockMax] at hgr
      have hlast : s.trace.length + 1 = (callEvents s.cLat s.bytes).length := by
        rw [hpos, hp, callEvents_length, Phase.eventsDone]; omega
      rw [hlast, List.take_length] at htr
      rw [hadv]
      exact .inr ⟨hlast, rfl, rfl, rfl, by simp [hh, htr], rfl, rfl, by simp [hpr]⟩

/-- With the next event answered `fail` the call has returned `COMM_FAIL`. -/
theorem Calling.step_fail (ha : s.answers = .fail :: rest) {e : Event} (he : s.nextEvent = some e) :
    ∃ t, step s = .next t ∧
      Returned s₀ ⟨s.trace ++ [(e, Answer.fail)], some .commFail, rest, e.lineAfterFail⟩ .commFail t := by
  obtain ⟨hinv, hne, hr, rfl, rfl, hh, hpr⟩ := id h
  cases hp : s.phase with
  | idle => exact absurd hp hne
  | select =>
    cases (nextEvent_of_select hp).symm.trans he
    exact ⟨_, (step_select hr hp).trans (stepSelect_fail ha), rfl, rfl, rfl, by simp [hh], rfl, rfl, by simp [hpr]⟩
  | write =>
    cases (nextEvent_of_write hp).symm.trans he
    obtain ⟨-, -, hlow, -⟩ := (inv_iff_of_call hne).mp hinv
    exact ⟨_, (step_write hr hp).trans (stepWrite_fail (block_length_of_inCall h.inCall) ha), rfl, rfl, rfl,
      by simp [hh], rfl, by simpa [Event.lineAfterFail] using hlow (.inl hp), by simp [hpr]⟩
  | deselect =>
    cases (nextEvent_of_deselect hp).symm.trans he
    exact ⟨_, (step_deselect hr hp).trans (stepDeselect_fail ha), rfl, rfl, rfl, by simp [hh], rfl, rfl,
      by simp [hpr]⟩

end Steps

/-! ## The run of a call -/

theorem runSteps_succ {s t : State} (h : step s = .next t) (n : Nat) : runSteps (n + 1) s = runSteps n t := by
  simp [runSteps, h]

section Runs
variable {s₀ s : State} {c : Classification} {B : List Byte} {rest : List Answer}

/-- As many events answered `ok` as the call has left end it with `OK`. -/
theorem Calling.run_oks (m : Nat) (h : Calling s₀ c B s) (hm : s.trace.length + (m + 1) = (callEvents c B).length)
    (ha : s.answers = List.replicate (m + 1) Answer.ok ++ rest) :
    ∃ u, runSteps (m + 1) s = some u ∧ Returned s₀ ⟨allOk (callEvents c B), some .ok, rest, .high⟩ .ok u := by
  induction m generalizing s with
  | zero =>
    obtain ⟨t, hs, ⟨ht, hlen, -⟩ | ⟨-, hret⟩⟩ := h.step_ok ha
    · have hlt := ht.trace_length_lt
      omega
    · exact ⟨t, runSteps_succ hs 0, hret⟩
  | succ m ih =>
    obtain ⟨t, hs, ⟨ht, hlen, hans⟩ | ⟨hlast, -⟩⟩ := h.step_ok ha
    · obtain ⟨u, hrun, hret⟩ := ih ht (by omega) hans
      exact ⟨u, (runSteps_succ hs _).trans hrun, hret⟩
    · omega

/-- The first `fail` ends the call with `COMM_FAIL`, at the event it answers. -/
theorem Calling.run_fail (m : Nat) (h : Calling s₀ c B s) {e : Event}
    (he : (callEvents c B)[s.trace.length + m]? = some e)
    (ha : s.answers = List.replicate m Answer.ok ++ Answer.fail :: rest) :
    ∃ u, runSteps (m + 1) s = some u ∧
      Returned s₀ ⟨allOk ((callEvents c B).take (s.trace.length + m)) ++ [(e, Answer.fail)], some .commFail, rest,
        e.lineAfterFail⟩ .commFail u := by
  induction m generalizing s with
  | zero =>
    obtain ⟨t, hs, hret⟩ := h.step_fail ha (h.nextEvent.symm.trans he)
    have htr := trace_of_inCall h.inCall h.running
    rw [h.cLat, h.bytes] at htr
    rw [htr] at hret
    exact ⟨t, runSteps_succ hs 0, hret⟩
  | succ m ih =>
    obtain ⟨hlt, -⟩ := List.getElem?_eq_some_iff.mp he
    obtain ⟨t, hs, ⟨ht, hlen, hans⟩ | ⟨hlast, -⟩⟩ := h.step_ok ha
    · have hpos : t.trace.length + m = s.trace.length + (m + 1) := by omega
      obtain ⟨u, hrun, hret⟩ := ih ht (hpos ▸ he) hans
      exact ⟨u, (runSteps_succ hs _).trans hrun, hpos ▸ hret⟩
    · omega

end Runs

/-- The steps of an accepted call that ends come to what the loop of 41_bitpack_transmitter.md R144 says. -/
theorem call_returns {s : State} {c : Classification} {B : List Byte} {st : Status} (hr : s.resetLine = false)
    (hst : (sendWhole c B s.answers s.cs).status = some st) :
    ∃ u, runSteps (sendWhole c B s.answers s.cs).trace.length (s.accept c B) = some u ∧
      Returned s (sendWhole c B s.answers s.cs) st u := by
  by_cases hB : B = []
  · subst hB
    obtain rfl : .ok = st := by simpa [sendWhole, blocks, cutBlocks, sendBlocks] using hst
    exact ⟨_, rfl, rfl, rfl, rfl, rfl, rfl, rfl, rfl⟩
  obtain ⟨hcall, htr, hans⟩ := calling_accept hr c hB
  obtain ⟨rest, ha, hw⟩ | ⟨n, e, rest, he, ha, hw⟩ | hw := sendWhole_cases c B s.answers
  · rw [hw] at hst ⊢
    cases hst
    obtain ⟨m, hm⟩ : ∃ m, (callEvents c B).length = m + 1 :=
      Nat.exists_eq_add_one.mpr (Nat.zero_lt_of_lt hcall.trace_length_lt)
    rw [hm] at ha
    simpa [hB, hm] using hcall.run_oks m (by simp [htr, hm]) (hans.trans ha)
  · rw [hw] at hst ⊢
    cases hst
    obtain ⟨hlt, -⟩ := List.getElem?_eq_some_iff.mp he
    have hrun := hcall.run_fail n (by simpa [htr] using he) (hans.trans ha)
    simpa [htr, Nat.min_eq_left hlt.le] using hrun
  · rw [hw] at hst
    cases hst

/-- What a whole call comes to does not depend on the line, but for the line itself. -/
theorem sendWhole_line (c : Classification) (B : List Byte) (ans : List Answer) (cs cs' : Level)
    (hst : (sendWhole c B ans cs).status ≠ none) :
    sendWhole c B ans cs' = { sendWhole c B ans cs with cs := (sendWhole c B ans cs').cs } := by
  obtain ⟨rest, -, hw⟩ | ⟨n, e, rest, -, -, hw⟩ | hw := sendWhole_cases c B ans
  · simp [hw]
  · simp [hw]
  · exact absurd (hw cs) hst

end Sys2Proof.Machine
end

section
/-! The obligations of the family `10_state`. -/

open Sys2Proof Sys2Proof.Machine

/-- Settles O12: a builder or a sequence generator only records its result. -/
theorem encoderHasNoState : Obligations.EncoderHasNoState := fun _ hi => exec_of_isEncoderOp hi

/-- Settles O24, by the definition of the reset state. -/
theorem stateAfterReset : Obligations.StateAfterReset := ⟨rfl, rfl, rfl, rfl, rfl, rfl⟩

/-- Settles O41: the reset state is in IDLE, with block size 1. -/
theorem invariantAtReset : Obligations.InvariantAtReset :=
  (inv_iff_of_idle rfl).mpr ⟨by decide, by decide, rfl, rfl⟩

/-- Settles O42: a block reset makes the invariant hold, and each phase keeps it. -/
theorem stepKeepsTheInvariant : Obligations.StepKeepsTheInvariant := fun _ _ => inv_step

/-- Settles O45, phase by phase. -/
theorem selectLineFollowsItsAnswers : Obligations.SelectLineFollowsItsAnswers := by
  intro s t hr h
  cases hp : s.phase with
  | idle => simp [stepHost_cs (step_idle hr hp ▸ h)]
  | select =>
    obtain ⟨hok, hfail, hwait⟩ := stepSelect_cs (step_select hr hp ▸ h)
    exact ⟨fun _ => hok, nofun, fun _ => hfail, by simpa using hwait⟩
  | write => simp [stepWrite_cs (step_write hr hp ▸ h)]
  | deselect =>
    obtain ⟨hok, hfail, hwait⟩ := stepDeselect_cs (step_deselect hr hp ▸ h)
    exact ⟨nofun, fun _ => hok, fun _ => hfail, by simpa using hwait⟩

/-- Settles O50: the line is the one the whole call comes to, for each way a call can end. -/
theorem lineAfterACall : Obligations.LineAfterACall := by
  intro s c B st hp hr hst
  obtain ⟨u, hrun, hret⟩ := call_returns hr hst
  refine ⟨_, u, exec_send_idle hp c B, hrun, ?_⟩
  rw [hret.cs]
  obtain ⟨rest, -, hw⟩ | ⟨n, e, rest, he, -, hw⟩ | hw := sendWhole_cases c B s.answers
  · rw [hw] at hst ⊢
    cases hst
    exact ⟨fun hB => if_pos hB, fun _ hB => if_neg hB, nofun⟩
  · rw [hw] at hst ⊢
    cases hst
    refine ⟨fun hB => by simp [hB, callEvents, blocks, cutBlocks] at he, nofun, fun _ => ?_⟩
    rw [List.getLast?_concat]
    cases e <;> rfl
  · rw [hw] at hst
    cases hst

/-- Settles O57: both calls come to the same whole but for the line. -/
theorem callsAreIndependent : Obligations.CallsAreIndependent := by
  intro s s' c B hp hp' hr hr' hans hst
  obtain ⟨st, hst'⟩ := Option.ne_none_iff_exists'.mp hst
  have hline := sendWhole_line c B s.answers s.cs s'.cs hst
  obtain ⟨u, hrun, hret⟩ := call_returns hr hst'
  have hst'' : (sendWhole c B s'.answers s'.cs).status = some st := by rw [← hans, hline, hst']
  obtain ⟨u', hrun', hret'⟩ := call_returns hr' hst''
  rw [← hans, hline] at hrun' hret'
  exact ⟨_, _, u, u', _, _, exec_send_idle hp c B, exec_send_idle hp' c B, hrun, hrun', hret.phase, hret'.phase,
    hret.history, hret'.history, hret.answers.trans hret'.answers.symm⟩
end

section
/-! The bits of a packed block, by their place in the stream. -/

namespace Sys2Proof

/-- The bits of a byte stand in `byteBits` from bit 7 down. -/
theorem byteBits_getD (b : Byte) (m : Nat) (h : m < 8) : (byteBits b).getD m false = b.getLsbD (7 - m) := by
  interval_cases m <;> rfl

/-- Nine stream bits a word: from bit `9i` on the stream is that of the bytes from `i` on (R58). -/
theorem bitStream_drop (c : Classification) (K : List Byte) (i : Nat) :
    (bitStream c K).drop (9 * i) = bitStream c (K.drop i) := by
  induction i generalizing K with
  | zero => rfl
  | succ i ih =>
    cases K with
    | nil => simp [bitStream]
    | cons b K => exact ih K

/-- Inside the stream, word `i` is the control bit above the bits of byte `i`. -/
theorem bitStream_word (c : Classification) (K : List Byte) (i r : Nat) (hi : i < K.length) (hr : r < 9) :
    (bitStream c K).getD (9 * i + r) false = (c.bit :: byteBits (K.getD i 0)).getD r false := by
  have hword : bitStream c (K.drop i) = (c.bit :: byteBits (K.getD i 0)) ++ bitStream c (K.drop (i + 1)) := by
    rw [List.drop_eq_getElem_cons hi, List.getD_eq_getElem K 0 hi]
    rfl
  calc (bitStream c K).getD (9 * i + r) false
      = ((bitStream c K).drop (9 * i)).getD r false := by simp [List.getD_eq_getElem?_getD]
    _ = (c.bit :: byteBits (K.getD i 0)).getD r false := by
        rw [bitStream_drop, hword, List.getD_append _ _ _ _ (by simpa using hr)]

theorem bitStream_controlBit (c : Classification) (K : List Byte) (i : Nat) (hi : i < K.length) :
    (bitStream c K).getD (9 * i) false = c.bit :=
  bitStream_word c K i 0 hi (by decide)

theorem bitStream_dataBit (c : Classification) (K : List Byte) (i m : Nat) (hi : i < K.length) (hm : m < 8) :
    (bitStream c K).getD (9 * i + (m + 1)) false = (K.getD i 0).getLsbD (7 - m) := by
  rw [bitStream_word c K i (m + 1) hi (by omega), List.getD_cons_succ, byteBits_getD _ _ hm]

theorem bitStream_pastEnd (c : Classification) (K : List Byte) (k : Nat) (hk : 9 * K.length ≤ k) :
    (bitStream c K).getD k false = false :=
  List.getD_eq_default _ _ (by simpa using hk)

/-- A block of 1 to 8 bytes fills one output byte more than it has bytes (R59). -/
theorem outCount_of_block {n : Nat} (h1 : 1 ≤ n) (h8 : n ≤ 8) : outCount n = n + 1 := by
  simp only [outCount, Config.wordBits, Config.busBits]
  omega

/-- Bit `7 - m` of output byte `k` of a packed block is stream bit `8k + m`. -/
theorem pack_getLsbD (c : Classification) {K : List Byte} (h1 : 1 ≤ K.length) (h8 : K.length ≤ 8) {k m : Nat}
    (hk : k ≤ K.length) (hm : m < 8) :
    ((pack c K).getD k 0).getLsbD (7 - m) = (bitStream c K).getD (8 * k + m) false := by
  have hbyte : (pack c K).getD k 0 = outByte (bitStream c K) k := by
    have hlt : k < outCount K.length := by rw [outCount_of_block h1 h8]; omega
    simp [pack, List.getD_eq_getElem?_getD, hlt]
  rw [hbyte, outByte_getLsbD _ _ _ hm]

/-- The last output byte: the low bits of the last byte of the block above the pad (R59). -/
theorem pack_lastByte (c : Classification) {K : List Byte} (h1 : 1 ≤ K.length) (h8 : K.length ≤ 8) :
    (pack c K).getD K.length 0 = K.getD (K.length - 1) 0 <<< (8 - K.length) := by
  refine BitVec.eq_of_getLsbD_eq fun b hb => ?_
  obtain ⟨m, hm, rfl⟩ : ∃ m, m < 8 ∧ b = 7 - m := ⟨7 - b, by omega, by omega⟩
  rw [pack_getLsbD c h1 h8 le_rfl hm, BitVec.getLsbD_shiftLeft]
  by_cases hpad : K.length ≤ m
  · have hlow : 7 - m < 8 - K.length := by omega
    rw [bitStream_pastEnd c K _ (by omega)]
    simp [hlow]
  · have hpos : 8 * K.length + m = 9 * (K.length - 1) + (m + (8 - K.length) + 1) := by omega
    have hbit : 7 - (m + (8 - K.length)) = 7 - m - (8 - K.length) := by omega
    have hhigh : ¬ 7 - m < 8 - K.length := by omega
    rw [hpos, bitStream_dataBit c K _ _ (by omega) (by omega), hbit]
    simp [hb, hhigh]

/-- Word `i` of a block begins, with its control bit, at bit `7 - i` of output byte `i` (R58). -/
theorem pack_controlBit (c : Classification) {K : List Byte} (h8 : K.length ≤ 8) {i : Nat} (hi : i < K.length) :
    ((pack c K).getD i 0).getLsbD (7 - i) = c.bit := by
  have hpos : 8 * i + i = 9 * i := by omega
  rw [pack_getLsbD c (by omega) h8 hi.le (by omega), hpos, bitStream_controlBit c K i hi]

end Sys2Proof
end

section
/-! The pixels of the frame buffer. -/

namespace Sys2Proof

/-- Clearing bit `k` of a byte and putting `on` there leaves every other bit (R68). -/
theorem getLsbD_clear_or (b : Byte) (on : Bool) (k j : Nat) (hj : j < 8) :
    ((b &&& ~~~(1#8 <<< k)) ||| ((BitVec.ofBool on).setWidth 8 <<< k)).getLsbD j =
      if j = k then on else b.getLsbD j := by
  obtain hlt | rfl | hgt := Nat.lt_trichotomy j k
  · simp [hj, hlt, hlt.ne]
  · simp [hj]
  · have hne : j - k ≠ 0 := by omega
    simp [hj, hgt.ne', hne]

/-- Modifying entry `j` of line `i` changes that entry only. -/
theorem getElem?_modify_line {α : Type} (lines : List (List α)) (f : α → α) (i j i' j' : Nat) :
    (lines.modify i (·.modify j f))[i']?.bind (·[j']?) =
      (lines[i']?.bind (·[j']?)).map fun a => if i = i' ∧ j = j' then f a else a := by
  rw [List.getElem?_modify]
  cases lines[i']? with
  | none => rfl
  | some l => by_cases hi : i = i' <;> simp [hi, List.getElem?_modify]

/-- The canvas: there is a pixel where there is a line and a byte in it (R67). -/
theorem getPixel_isSome_iff (fb : FrameBuffer) (x y : Nat) :
    (getPixel fb x y).isSome ↔ ∃ l ∈ fb[y / 8]?, x < l.length := by
  cases h : fb[y / 8]? <;> simp [getPixel, h]

/-- With a pixel set, that one has the new value where it is on the canvas, and every other one its old value. -/
theorem getPixel_setPixel (fb : FrameBuffer) (x y : Nat) (on : Bool) (x' y' : Nat) :
    getPixel (setPixel fb x y on) x' y' =
      (getPixel fb x' y').map fun old => if (x', y') = (x, y) then on else old := by
  have hbit : y' % 8 < 8 := Nat.mod_lt _ (by decide)
  simp only [getPixel, setPixel, getElem?_modify_line, Option.map_map]
  congr 1
  funext b
  by_cases hbyte : y / 8 = y' / 8 ∧ x = x'
  · have hsame : (x', y') = (x, y) ↔ y' % 8 = y % 8 := by
      simp only [Prod.mk.injEq]
      omega
    simp only [Function.comp, if_pos hbyte, getLsbD_clear_or b on _ _ hbit, hsame]
  · have hother : (x', y') ≠ (x, y) := by
      rintro ⟨⟩
      exact hbyte ⟨rfl, rfl⟩
    simp only [Function.comp, if_neg hbyte, if_neg hother]

/-- Off the canvas there is no byte to modify (R68). -/
theorem setPixel_off_canvas {fb : FrameBuffer} {x y : Nat} (on : Bool)
    (h : ¬ ∃ l ∈ fb[y / 8]?, x < l.length) : setPixel fb x y on = fb := by
  rw [setPixel, List.modify_eq_set_getElem?]
  cases hl : fb[y / 8]? with
  | none => rfl
  | some l =>
    have hx : l.length ≤ x := by simpa [hl] using h
    obtain ⟨hlt, rfl⟩ := List.getElem?_eq_some_iff.mp hl
    simp [List.modify_eq_self hx]

end Sys2Proof
end

section
/-! The obligations of the family `20_memory`. -/

open Sys2Proof

/-- Settles O30: the last byte and the control bits are read off the stream, nine bits a word. -/
theorem paddingAndWordPositions : Obligations.PaddingAndWordPositions := by
  intro c K h1 h8
  have hlast := pack_lastByte c h1 h8
  refine ⟨bitStream_length c K, hlast, fun j hj => ?_, fun i hi => pack_controlBit c h8 hi⟩
  rw [hlast, BitVec.getLsbD_shiftLeft]
  simp [hj]

/-- Settles O60, by what every pixel reads after one is set. -/
theorem setPixelChangesOnePixel : Obligations.SetPixelChangesOnePixel := by
  intro fb x y on
  refine ⟨fun hon => ?_, fun x' y' hne => ?_, setPixel_off_canvas on⟩
  · obtain ⟨old, hold⟩ := Option.isSome_iff_exists.mp ((getPixel_isSome_iff fb x y).mpr hon)
    rw [getPixel_setPixel, hold, Option.map_some, if_pos rfl]
  · simp only [getPixel_setPixel, if_neg hne, Option.map_id']
end

section
/-! The bits of an opcode byte: its fixed bits above its argument field, and the bytes a row of the opcode map
covers. -/

namespace Sys2Proof

/-! ## A field below fixed bits -/

section Field
variable {p m f : Byte}

theorem fixed_or_field_and_mask (hp : p &&& m = p) (hf : f &&& m = 0#8) (v : Byte) : (p ||| (v &&& f)) &&& m = p := by
  rw [BitVec.and_or_distrib_right, BitVec.and_assoc, hp, hf, BitVec.and_zero, BitVec.or_zero]

theorem fixed_or_field_and_field (hp : p &&& f = 0#8) (v : Byte) : (p ||| (v &&& f)) &&& f = v &&& f := by
  rw [BitVec.and_or_distrib_right, BitVec.and_assoc, hp, BitVec.and_self, BitVec.zero_or]

/-- A byte is its fixed bits with its field filled in. -/
theorem fixed_or_field_of_matches {op : Byte} (h : op &&& m = p) (hmf : m ||| f = BitVec.allOnes 8) :
    p ||| (op &&& f) = op := by
  rw [← h, ← BitVec.and_or_distrib_left, hmf, BitVec.and_allOnes]

/-- Masking to a field after masking to more than the field is masking to the field. -/
theorem and_and_field (hmf : m &&& f = f) (v : Byte) : v &&& m &&& f = v &&& f := by
  rw [BitVec.and_assoc, hmf]

end Field

theorem and_lowMask_eq_self_iff (v : Byte) (k : Nat) (hk : k ≤ 8) :
    v &&& BitVec.ofNat 8 (2 ^ k - 1) = v ↔ v.toNat < 2 ^ k := by
  have hpow : 2 ^ k ≤ 2 ^ 8 := Nat.pow_le_pow_right (by decide) hk
  rw [← BitVec.toNat_inj, BitVec.toNat_and, BitVec.toNat_ofNat, Nat.mod_eq_of_lt (by omega),
    Nat.and_two_pow_sub_one_eq_mod]
  exact Nat.mod_eq_iff_lt (by positivity)

theorem and_highMask_toNat (op : Byte) (k : Nat) :
    (op &&& (BitVec.allOnes 8 <<< k)).toNat = op.toNat / 2 ^ k * 2 ^ k := by
  have hle := Nat.div_mul_le_self op.toNat (2 ^ k)
  rw [← BitVec.shiftLeft_ushiftRight, BitVec.toNat_shiftLeft, BitVec.toNat_ushiftRight, Nat.shiftRight_eq_div_pow,
    Nat.shiftLeft_eq, Nat.mod_eq_of_lt (by omega)]

/-! ## The bytes of a row -/

/-- The argument field of every row is the low bits of the opcode (30_encoding.md R81). -/
theorem opcodeMap_fixesHighBits : ∀ r ∈ opcodeMap, ∃ k < 8,
    r.mask = BitVec.allOnes 8 <<< k ∧ r.mask.toNat = 256 - 2 ^ k ∧ r.pattern.toNat % 2 ^ k = 0 := by decide

/-- Every row covers one range of bytes, from its pattern on (R86). -/
theorem matches_iff_range {r : OpcodeRow} (hr : r ∈ opcodeMap) (op : Byte) :
    r.matches op = true ↔ r.pattern.toNat ≤ op.toNat ∧ op.toNat + r.mask.toNat < r.pattern.toNat + 256 := by
  obtain ⟨k, hk, hmask, hsize, hpat⟩ := opcodeMap_fixesHighBits r hr
  have hlt := op.isLt
  rw [OpcodeRow.matches, beq_iff_eq, hsize, hmask, ← BitVec.toNat_inj, and_highMask_toNat]
  interval_cases k <;> omega

/-- Two rows differ in a bit that both fix (R86). -/
theorem opcodeMap_disjoint :
    opcodeMap.Pairwise fun r r' => r.pattern &&& r'.mask ≠ r'.pattern &&& r.mask := by decide

theorem filter_matches_length_le_one (op : Byte) : (opcodeMap.filter (·.matches op)).length ≤ 1 := by
  have hdisj := opcodeMap_disjoint.filter (·.matches op)
  have hmem : ∀ r ∈ opcodeMap.filter (·.matches op), op &&& r.mask = r.pattern := fun r hr => by
    simpa [OpcodeRow.matches] using (List.mem_filter.mp hr).2
  match hrows : opcodeMap.filter (·.matches op) with
  | [] | [_] => rw [hrows]; simp
  | r :: r' :: rest =>
    rw [hrows] at hdisj hmem
    have hne := List.rel_of_pairwise_cons hdisj (List.mem_cons_self (a := r'))
    rw [← hmem r (by simp), ← hmem r' (by simp), BitVec.and_assoc, BitVec.and_assoc, BitVec.and_comm r.mask] at hne
    exact absurd rfl hne

end Sys2Proof
end

section
/-! The decoder of opcode bytes and of selectors, by the rows of the opcode map. -/

namespace Sys2Proof

/-! ## Opcode bytes -/

section Opcode
variable {r : OpcodeRow} {op : Byte}

theorem decode_opcode_of_matches (hr : r ∈ opcodeMap) (hm : r.matches op = true) :
    decode (.opcode op) = .ok (r.build (r.argument op)) := by
  have hmem : r ∈ opcodeMap.filter (·.matches op) := List.mem_filter.mpr ⟨hr, hm⟩
  obtain ⟨r', hrows⟩ := List.length_eq_one_iff.mp
    (Nat.le_antisymm (filter_matches_length_le_one op) (List.length_pos_of_mem hmem))
  rw [hrows, List.mem_singleton] at hmem
  have hfind : opcodeMap.find? (·.matches op) = some r := by rw [← List.head?_filter, hrows, hmem]; rfl
  simp [decode, hfind]

theorem decode_opcode_of_range (hr : r ∈ opcodeMap) {lo hi : Nat} (hlo : r.pattern.toNat = lo)
    (hhi : r.mask.toNat + hi = lo + 255) (h : lo ≤ op.toNat) (h' : op.toNat ≤ hi) :
    decode (.opcode op) = .ok (r.build (r.argument op)) :=
  decode_opcode_of_matches hr ((matches_iff_range hr op).mpr ⟨by omega, by omega⟩)

/-- All an opcode byte can decode to: the instruction of a row that matches it, or nothing, where none does. -/
theorem decode_opcode_cases (op : Byte) :
    (∃ r ∈ opcodeMap, r.matches op = true ∧ decode (.opcode op) = .ok (r.build (r.argument op))) ∨
    ((∀ r ∈ opcodeMap, ¬ r.matches op = true) ∧ decode (.opcode op) = .error (.noRow op)) := by
  cases hfind : opcodeMap.find? (·.matches op) with
  | some r =>
    have hr := List.mem_of_find?_eq_some hfind
    have hm := List.find?_some hfind
    exact .inl ⟨r, hr, hm, decode_opcode_of_matches hr hm⟩
  | none => exact .inr ⟨List.find?_eq_none.mp hfind, by simp [decode, hfind]⟩

/-- The bytes no row produces (30_encoding.md R87). -/
abbrev Unproduced (n : Nat) : Prop :=
  (0x18 ≤ n ∧ n ≤ 0x27) ∨ (0x29 ≤ n ∧ n ≤ 0x2E) ∨ (0x30 ≤ n ∧ n ≤ 0x3F) ∨ n = 0xA2 ∨ n = 0xA3 ∨
    (0xA8 ≤ n ∧ n ≤ 0xAD) ∨ (0xC1 ≤ n ∧ n ≤ 0xC7) ∨ (0xC9 ≤ n ∧ n ≤ 0xE1) ∨ 0xE3 ≤ n

theorem unproduced_iff_no_row (op : Byte) : Unproduced op.toNat ↔ ∀ r ∈ opcodeMap, ¬ r.matches op = true := by
  have hlt := op.isLt
  rw [forall₂_congr fun r hr => not_congr (matches_iff_range hr op)]
  simp only [Unproduced, opcodeMap, parameterRows, fixedRows, fixedRow, List.cons_append, List.nil_append,
    List.forall_mem_cons, List.not_mem_nil, false_implies, implies_true, and_true, BitVec.ofNat_eq_ofNat,
    BitVec.toNat_ofNat]
  omega

theorem unproduced_iff_decode (op : Byte) : Unproduced op.toNat ↔ decode (.opcode op) = .error (.noRow op) := by
  rw [unproduced_iff_no_row]
  obtain ⟨r, hr, hm, hd⟩ | ⟨hnone, hd⟩ := decode_opcode_cases op
  · simpa [hd] using ⟨r, hr, hm⟩
  · simpa [hd] using hnone

theorem decode_opcode_isSome_iff (op : Byte) :
    (decode (.opcode op)).toOption.isSome = true ↔ ¬ Unproduced op.toNat := by
  rw [unproduced_iff_decode]
  obtain ⟨r, -, -, hd⟩ | ⟨-, hd⟩ := decode_opcode_cases op <;> simp [hd, Except.toOption]

end Opcode

/-! ## Selectors -/

theorem decode_select_of_lt {sel : BitVec 5} (h : sel.toNat < opcodeMap.length) (v : Byte) :
    decode (.select sel v) = .ok (opcodeMap[sel.toNat].build v) := by
  simp [decode, h]

theorem decode_select_reserved {sel : BitVec 5} (h : 18 ≤ sel.toNat) (v : Byte) :
    decode (.select sel v) = .error (.reservedSelector sel) := by
  have hnone : opcodeMap[sel.toNat]? = none := List.getElem?_eq_none h
  simp [decode, hnone]

end Sys2Proof
end

section
/-! The operations of the encoder: their encoding is their output, and an argument counts as its field. -/

namespace Sys2Proof

/-! ## The output is the encoding -/

theorem opContrast_eq_append (v : Byte) : opContrast v = 0b100#3 ++ v.extractLsb' 0 5 := by revert v; decide
theorem opLine_eq_append (v : Byte) : opLine v = 0b01#2 ++ v.extractLsb' 0 6 := by revert v; decide
theorem opPage_eq_append (v : Byte) : opPage v = 0b1011#4 ++ v.extractLsb' 0 4 := by revert v; decide
theorem opColLo_eq_append (v : Byte) : opColLo v = 0b0000#4 ++ v.extractLsb' 0 4 := by revert v; decide
theorem opColHi_eq_append (v : Byte) : opColHi v = 0b00010#5 ++ v.extractLsb' 4 3 := by revert v; decide

/-- The opcode builders are the operations encoded as one byte, and that byte is their output. -/
theorem encode_eq_opcode_iff (i : Instr) (op : Byte) : encode i = .opcode op ↔ builderOutput i = some op := by
  cases i with
  | contrast v => simp [encode, builderOutput, opContrast_eq_append]
  | line v => simp [encode, builderOutput, opLine_eq_append]
  | page v => simp [encode, builderOutput, opPage_eq_append]
  | colLo v => simp [encode, builderOutput, opColLo_eq_append]
  | colHi v => simp [encode, builderOutput, opColHi_eq_append]
  | initSequence | setPosition | pack | send => exact ⟨nofun, nofun⟩
  | _ => exact ⟨fun h => congrArg some (Request.opcode.inj h), fun h => congrArg Request.opcode (Option.some.inj h)⟩

theorem encodePosition_eq (col row : Byte) : encodePosition col row = opsSetPosition col row := by
  rw [opsSetPosition, opColLo_eq_append, opColHi_eq_append, opPage_eq_append, encodePosition]

theorem initTable_eq : initTable = opsInitSequence := by decide

/-! ## Masked arguments -/

/-- The operation with every argument masked to the bits its builders use (30_encoding.md R88). -/
def Instr.masked : Instr → Instr
  | .contrast v => .contrast (v &&& 0x1F)
  | .line v => .line (v &&& 0x3F)
  | .page v => .page (v &&& 0x0F)
  | .colLo v => .colLo (v &&& 0x0F)
  | .colHi v => .colHi (v &&& 0x70)
  | .setPosition col row => .setPosition (col &&& 0x7F) (row &&& 0x0F)
  | i => i

theorem opContrast_masked (v : Byte) : opContrast (v &&& 0x1F) = opContrast v := by
  rw [opContrast, contrastField, and_and_field rfl]; rfl

theorem opLine_masked (v : Byte) : opLine (v &&& 0x3F) = opLine v := by
  rw [opLine, lineField, and_and_field rfl]; rfl

theorem opPage_masked (v : Byte) : opPage (v &&& 0x0F) = opPage v := by
  rw [opPage, pageField, and_and_field rfl]; rfl

theorem opColLo_masked {m : Byte} (hm : m &&& 0x0F = 0x0F) (v : Byte) : opColLo (v &&& m) = opColLo v := by
  rw [opColLo, colLoField, and_and_field hm]; rfl

theorem opColHi_masked {m : Byte} (hm : m >>> 4 &&& 0x07 = 0x07) (v : Byte) : opColHi (v &&& m) = opColHi v := by
  rw [opColHi, colHiField, BitVec.ushiftRight_and_distrib, and_and_field hm]; rfl

theorem and_outside_colHi_iff (v : Byte) : v &&& 0x8F = 0 ↔ v &&& 0x70 = v := by revert v; decide

/-- For an operation of the encoder, well-formed means that masking loses nothing (log 22). -/
theorem wf_iff_masked {i : Instr} (hi : Machine.isEncoderOp i = true) : i.wf = true ↔ i.masked = i := by
  have hlow := and_lowMask_eq_self_iff
  cases i with
  | contrast v => simpa [Instr.wf, Instr.masked, BitVec.lt_def] using (hlow v 5 (by decide)).symm
  | line v => simpa [Instr.wf, Instr.masked, BitVec.lt_def] using (hlow v 6 (by decide)).symm
  | page v => simpa [Instr.wf, Instr.masked, BitVec.lt_def] using (hlow v 4 (by decide)).symm
  | colLo v => simpa [Instr.wf, Instr.masked, BitVec.lt_def] using (hlow v 4 (by decide)).symm
  | colHi v => simpa [Instr.wf, Instr.masked] using and_outside_colHi_iff v
  | setPosition col row =>
    simpa [Instr.wf, Instr.masked, BitVec.lt_def] using
      (and_congr (hlow col 7 (by decide)) (hlow row 4 (by decide))).symm
  | pack | send => cases hi
  | _ => exact ⟨fun _ => rfl, fun _ => rfl⟩

end Sys2Proof

namespace Sys2Proof.Machine

/-- An argument outside its range runs as its masked value (30_encoding.md R88). -/
theorem exec_masked (i : Instr) (s : State) : exec i.masked s = exec i s := by
  cases i with
  | contrast v => exact congrArg (deliverOpcode · s) (opContrast_masked v)
  | line v => exact congrArg (deliverOpcode · s) (opLine_masked v)
  | page v => exact congrArg (deliverOpcode · s) (opPage_masked v)
  | colLo v => exact congrArg (deliverOpcode · s) (opColLo_masked rfl v)
  | colHi v => exact congrArg (deliverOpcode · s) (opColHi_masked rfl v)
  | setPosition col row =>
    refine congrArg (deliverOpcodes · s) ?_
    rw [opsSetPosition, opColLo_masked rfl, opColHi_masked rfl, opPage_masked, opsSetPosition]
  | _ => rfl

end Sys2Proof.Machine
end

section
/-! Decoding and encoding, the one after the other. -/

namespace Sys2Proof

/-! ## The encodings of the encoder's operations -/

/-- The pattern of a row with its field filled in decodes to the row's instruction on that field. -/
theorem decode_fixed_or_field {r : OpcodeRow} (hr : r ∈ opcodeMap) {f : Byte}
    (harg : ∀ x, r.argument x = x &&& f) (hp : r.pattern &&& r.mask = r.pattern) (hf : f &&& r.mask = 0#8)
    (hpf : r.pattern &&& f = 0#8) (v : Byte) :
    decode (.opcode (r.pattern ||| (v &&& f))) = .ok (r.build (v &&& f)) := by
  have hm : r.matches (r.pattern ||| (v &&& f)) = true := beq_iff_eq.mpr (fixed_or_field_and_mask hp hf v)
  rw [decode_opcode_of_matches hr hm, harg, fixed_or_field_and_field hpf]

theorem decode_opContrast (v : Byte) : decode (.opcode (opContrast v)) = .ok (.contrast (v &&& 0x1F)) :=
  decode_fixed_or_field (r := opcodeMap[0]) (List.getElem_mem _) (fun _ => rfl) rfl rfl rfl v

theorem decode_opLine (v : Byte) : decode (.opcode (opLine v)) = .ok (.line (v &&& 0x3F)) :=
  decode_fixed_or_field (r := opcodeMap[1]) (List.getElem_mem _) (fun _ => rfl) rfl rfl rfl v

theorem decode_opPage (v : Byte) : decode (.opcode (opPage v)) = .ok (.page (v &&& 0x0F)) :=
  decode_fixed_or_field (r := opcodeMap[2]) (List.getElem_mem _) (fun _ => rfl) rfl rfl rfl v

theorem opColLo_eq_or (v : Byte) : opColLo v = 0x00 ||| (v &&& 0x0F) := (BitVec.zero_or).symm

theorem decode_opColLo (v : Byte) : decode (.opcode (opColLo v)) = .ok (.colLo (v &&& 0x0F)) := by
  rw [opColLo_eq_or]
  exact decode_fixed_or_field (r := opcodeMap[3]) (List.getElem_mem _) (fun _ => rfl) rfl rfl rfl v

/-- `COL_HI` holds bits 6 to 4 of the column number (30_encoding.md R84), and reading it back puts them there. -/
theorem opColHi_field (v : Byte) : (opColHi v &&& 0x07) <<< 4 = v &&& 0x70 := by
  rw [opColHi, colHiField, fixed_or_field_and_field rfl, BitVec.shiftLeft_and_distrib, BitVec.shiftLeft_ushiftRight,
    and_and_field rfl]
  rfl

theorem opColHi_of_field (x : Byte) : opColHi ((x &&& 0x07) <<< 4) = 0x10 ||| (x &&& 0x07) := by revert x; decide

theorem colHi_argument_masked (x : Byte) : (x &&& 0x07) <<< 4 &&& 0x70 = (x &&& 0x07) <<< 4 := by
  rw [BitVec.shiftLeft_and_distrib]
  exact and_and_field rfl _

theorem opColHi_matches (v : Byte) : opColHi v &&& 0xF8 = 0x10 := fixed_or_field_and_mask rfl rfl _

theorem decode_opColHi (v : Byte) : decode (.opcode (opColHi v)) = .ok (.colHi (v &&& 0x70)) := by
  have hm : opcodeMap[4].matches (opColHi v) = true := beq_iff_eq.mpr (opColHi_matches v)
  rw [decode_opcode_of_matches (List.getElem_mem _) hm, ← opColHi_field]
  rfl

theorem decodePosition_opsSetPosition (col row : Byte) :
    decodePosition (opsSetPosition col row) = some (.setPosition (col &&& 0x7F) (row &&& 0x0F)) := by
  have hlo : opColLo col &&& 0xF0 = 0x00 := opColLo_eq_or col ▸ fixed_or_field_and_mask rfl rfl col
  have hpg : opPage row &&& 0xF0 = 0xB0 := fixed_or_field_and_mask rfl rfl row
  have hcol : (opColHi col &&& 0x07) <<< 4 ||| (opColLo col &&& 0x0F) = col &&& 0x7F := by
    rw [opColHi_field, opColLo_eq_or, fixed_or_field_and_field rfl, ← BitVec.and_or_distrib_left]
    rfl
  have hrow : opPage row &&& 0x0F = row &&& 0x0F := fixed_or_field_and_field rfl row
  rw [opsSetPosition, decodePosition, if_pos ⟨hlo, opColHi_matches col, hpg⟩, hcol, hrow]

/-- What the encoding of an operation of the encoder is read back as (R86). -/
theorem decode_encode_masked {i : Instr} (hi : Machine.isEncoderOp i = true) :
    decode (encode i) = .ok i.masked := by
  cases i with
  | contrast v => rw [(encode_eq_opcode_iff _ _).mpr rfl, decode_opContrast]; rfl
  | line v => rw [(encode_eq_opcode_iff _ _).mpr rfl, decode_opLine]; rfl
  | page v => rw [(encode_eq_opcode_iff _ _).mpr rfl, decode_opPage]; rfl
  | colLo v => rw [(encode_eq_opcode_iff _ _).mpr rfl, decode_opColLo]; rfl
  | colHi v => rw [(encode_eq_opcode_iff _ _).mpr rfl, decode_opColHi]; rfl
  | setPosition col row =>
    have hne : opsSetPosition col row ≠ initTable := by simp [opsSetPosition, initTable]
    rw [encode, encodePosition_eq, decode, if_neg hne, decodePosition_opsSetPosition]
    rfl
  | pack | send => cases hi
  | _ => rfl

/-! ## A decoded byte encoded -/

theorem isEncoderOp_of_builderOutput {i : Instr} {op : Byte} (h : builderOutput i = some op) :
    Machine.isEncoderOp i = true := by
  cases i with
  | pack | send => cases h
  | _ => rfl

/-- The fixed rows are those of the builders without an argument, each with its own output. -/
theorem fixedRows_spec {r : OpcodeRow} (hr : r ∈ fixedRows) :
    ∃ i op, r = fixedRow op i ∧ builderOutput i = some op ∧ i.masked = i := by
  simp only [fixedRows, List.mem_cons, List.not_mem_nil, or_false] at hr
  rcases hr with rfl | rfl | rfl | rfl | rfl | rfl | rfl | rfl | rfl | rfl | rfl | rfl | rfl <;>
    exact ⟨_, _, rfl, rfl, rfl⟩

/-- A byte that matches a row is the output of what the row reads from it, and the argument it reads is masked. -/
theorem builderOutput_of_matches {r : OpcodeRow} {op : Byte} (hr : r ∈ opcodeMap) (hm : r.matches op = true) :
    builderOutput (r.build (r.argument op)) = some op ∧
      (r.build (r.argument op)).masked = r.build (r.argument op) := by
  have hop : op &&& r.mask = r.pattern := beq_iff_eq.mp hm
  obtain hp | hf := List.mem_append.mp hr
  · simp only [parameterRows, List.mem_cons, List.not_mem_nil, or_false] at hp
    obtain rfl | rfl | rfl | rfl | rfl := hp
    · exact ⟨congrArg some ((opContrast_masked op).trans (fixed_or_field_of_matches hop rfl)),
        congrArg Instr.contrast (and_and_field rfl op)⟩
    · exact ⟨congrArg some ((opLine_masked op).trans (fixed_or_field_of_matches hop rfl)),
        congrArg Instr.line (and_and_field rfl op)⟩
    · exact ⟨congrArg some ((opPage_masked op).trans (fixed_or_field_of_matches hop rfl)),
        congrArg Instr.page (and_and_field rfl op)⟩
    · have hself := (opColLo_eq_or op).trans (fixed_or_field_of_matches hop rfl)
      exact ⟨congrArg some ((opColLo_masked rfl op).trans hself), congrArg Instr.colLo (and_and_field rfl op)⟩
    · exact ⟨congrArg some ((opColHi_of_field op).trans (fixed_or_field_of_matches hop rfl)),
        congrArg Instr.colHi (colHi_argument_masked op)⟩
  · obtain ⟨i, op', rfl, hout, hmask⟩ := fixedRows_spec hf
    have hself : op = op' := BitVec.and_allOnes.symm.trans hop
    exact ⟨hself ▸ hout, hmask⟩

end Sys2Proof
end

section
/-! A packed block read back. -/

namespace Sys2Proof

theorem bytesBits_getD (l : List Byte) (k m : Nat) (hm : m < 8) :
    (bytesBits l).getD (8 * k + m) false = (l.getD k 0).getLsbD (7 - m) := by
  induction l generalizing k with
  | nil => simp [bytesBits]
  | cons b l ih =>
    have hcons : bytesBits (b :: l) = byteBits b ++ bytesBits l := rfl
    rw [hcons]
    cases k with
    | zero => rw [Nat.mul_zero, Nat.zero_add, List.getD_append _ _ _ _ hm, byteBits_getD b m hm, List.getD_cons_zero]
    | succ k =>
      have hpos : 8 * (k + 1) + m - (byteBits b).length = 8 * k + m := by rw [byteBits_length]; omega
      rw [List.getD_append_right _ _ _ _ (by rw [byteBits_length]; omega), hpos, ih, List.getD_cons_succ]

/-- The byte made of the bits of a byte is that byte. -/
theorem byteOfBits_eq {b : Byte} {f : Nat → Bool} (h : ∀ m < 8, f m = b.getLsbD (7 - m)) : byteOfBits f = b := by
  refine BitVec.eq_of_getLsbD_eq fun j hj => ?_
  obtain ⟨m, hm, rfl⟩ : ∃ m, m < 8 ∧ j = 7 - m := ⟨7 - j, by omega, by omega⟩
  rw [byteOfBits_getLsbD f m hm, h m hm]

section Block
variable (c : Classification) {K : List Byte} (h1 : 1 ≤ K.length) (h8 : K.length ≤ 8)
include h1 h8

theorem pack_length_of_block : (pack c K).length = K.length + 1 := by
  rw [pack_length, outCount_of_block h1 h8]

/-- The bits of a packed block are the stream of the block and a pad of zeros (41_bitpack_transmitter.md R141). -/
theorem bytesBits_pack_getD {j : Nat} (hj : j < 8 * (K.length + 1)) :
    (bytesBits (pack c K)).getD j false = (bitStream c K).getD j false := by
  obtain ⟨k, m, hk, hm, rfl⟩ : ∃ k m, k ≤ K.length ∧ m < 8 ∧ j = 8 * k + m :=
    ⟨j / 8, j % 8, by omega, by omega, by omega⟩
  rw [bytesBits_getD _ _ _ hm, pack_getLsbD c h1 h8 hk hm]

/-- The inverse of the transform recovers the control bits, the bytes and the pad (R153). -/
theorem unpack_pack :
    unpack (pack c K) = (List.replicate K.length c.bit, K, List.replicate (8 - K.length) false) := by
  have hbit := @bytesBits_pack_getD c K h1 h8
  have hcontrol : ((List.range K.length).map fun i => (bytesBits (pack c K)).getD (9 * i) false) =
      List.replicate K.length c.bit := by
    refine List.eq_replicate_iff.mpr ⟨by simp, fun b hb => ?_⟩
    obtain ⟨i, hi, rfl⟩ := List.mem_map.mp hb
    rw [List.mem_range] at hi
    rw [hbit (by omega), bitStream_controlBit c K i hi]
  have hbytes : ((List.range K.length).map fun i => byteOfBits fun j =>
      (bytesBits (pack c K)).getD (9 * i + 1 + j) false) = K := by
    refine List.ext_getElem (by simp) fun i _ hi => ?_
    rw [List.getElem_map, List.getElem_range]
    refine byteOfBits_eq fun m hm => ?_
    rw [hbit (by omega), show 9 * i + 1 + m = 9 * i + (m + 1) by omega, bitStream_dataBit c K i m hi hm,
      List.getD_eq_getElem K 0 hi]
  have hpad : (bytesBits (pack c K)).drop (9 * K.length) = List.replicate (8 - K.length) false := by
    have hlen : (bytesBits (pack c K)).length = 8 * (K.length + 1) := by
      rw [bytesBits_length, pack_length_of_block c h1 h8]
    refine List.ext_getElem (by simp [hlen]; omega) fun j hj _ => ?_
    rw [List.length_drop, hlen] at hj
    rw [List.getElem_drop, List.getElem_replicate, ← List.getD_eq_getElem _ false, hbit (by omega),
      bitStream_pastEnd c K _ (by omega)]
  simp only [unpack, pack_length_of_block c h1 h8, Nat.add_sub_cancel, hcontrol, hbytes, hpad]

theorem decode_pack : decode (.block (pack c K)) = .ok (.pack c K) := by
  have hlen := pack_length_of_block c h1 h8
  have hhead : (List.replicate K.length c.bit).headD false = c.bit := by
    obtain ⟨n, hn⟩ := Nat.exists_eq_add_one.mpr h1
    rw [hn]; rfl
  have hblock : decodeBlock (pack c K) = some (.pack c K) := by
    simp only [decodeBlock, unpack_pack c h1 h8, hhead, ofBit_bit]
    exact if_pos ⟨by omega, by omega, fun _ => List.eq_of_mem_replicate, fun _ => List.eq_of_mem_replicate⟩
  simp [decode, hblock]

end Block

end Sys2Proof
end

section
/-! What the encoder delivers, and its ports. -/

namespace Sys2Proof.Machine

theorem record_inj {s : State} {r r' : Record} : s.record r = s.record r' ↔ r = r' := by
  constructor
  · intro h
    simpa using congrArg State.history h
  · rintro rfl
    rfl

/-- Only the builders deliver an opcode byte and change nothing else, in whatever state. -/
theorem exec_eq_record_opcode_iff (i : Instr) (op : Byte) (s : State) :
    exec i s = .next (s.record (.opcode op)) ↔ builderOutput i = some op := by
  refine ⟨fun h => ?_, fun h => exec_of_builderOutput h s⟩
  cases hout : builderOutput i with
  | some op' =>
    rw [exec_of_builderOutput hout, Host.Outcome.next.injEq, record_inj, Record.opcode.injEq] at h
    rw [h]
  | none =>
    cases i with
    | initSequence | setPosition =>
      rw [exec] at h
      cases record_inj.mp (Host.Outcome.next.inj h)
    | pack c K =>
      simp only [exec, execPack] at h
      split at h
      · simpa using congrArg State.history (Host.Outcome.next.inj h)
      · cases h
    | send c B =>
      simp only [exec, execSend, State.accept] at h
      split at h
      · have hhist := congrArg State.history (Host.Outcome.next.inj h)
        split at hhist <;> simp at hhist
      · cases h
    | _ => cases hout

/-- A request that names no operation is refused by name (30_encoding.md R87, R89; log 24). -/
theorem step_of_undecodable {s : State} {r : Request} {acts : List HostAct} {later : List (List HostAct)} {why : Reject}
    (hr : s.resetLine = false) (hp : s.phase = .idle) (hprog : s.program = (.request r :: acts) :: later)
    (hd : decode r = .error why) : step s = .refused (.undecodable why) := by
  simp [step_idle hr hp, stepHost, State.hostMove, hprog, hd]

end Sys2Proof.Machine

namespace Sys2Proof

theorem encPort_eq_some_iff (sel : BitVec 5) (v op : Byte) :
    encPort sel v = some op ↔ ∃ i, decode (.select sel v) = .ok i ∧ builderOutput i = some op := by
  rw [encPort]
  cases decode (.select sel v) <;> simp [Except.toOption]

/-- Every row builds a builder, whatever the argument. -/
theorem builderOutput_build_isSome {r : OpcodeRow} (hr : r ∈ opcodeMap) (v : Byte) :
    (builderOutput (r.build v)).isSome = true := by
  obtain hp | hf := List.mem_append.mp hr
  · simp only [parameterRows, List.mem_cons, List.not_mem_nil, or_false] at hp
    rcases hp with rfl | rfl | rfl | rfl | rfl <;> rfl
  · obtain ⟨i, op, rfl, hout, -⟩ := fixedRows_spec hf
    exact Option.isSome_of_eq_some hout

theorem encPort_isSome_iff (sel : BitVec 5) (v : Byte) : (encPort sel v).isSome = true ↔ sel.toNat < 18 := by
  rw [encPort]
  by_cases h : sel.toNat < 18
  · rw [decode_select_of_lt h]
    exact iff_of_true (builderOutput_build_isSome (List.getElem_mem h) v) h
  · rw [decode_select_reserved (by omega)]
    exact iff_of_false nofun h

/-- The position port holds the three opcode bytes, the first one sent on top. -/
theorem posPort_bytes (col row : Byte) :
    (posPort col row).extractLsb' 16 8 = opColLo col ∧ (posPort col row).extractLsb' 8 8 = opColHi col ∧
      (posPort col row).extractLsb' 0 8 = opPage row := by
  refine ⟨?_, ?_, BitVec.extractLsb'_append_eq_right⟩
  · rw [posPort, BitVec.extractLsb'_append_eq_of_le (by decide)]
    exact BitVec.extractLsb'_append_eq_left
  · rw [posPort, BitVec.extractLsb'_append_eq_of_le (by decide)]
    exact BitVec.extractLsb'_append_eq_right

end Sys2Proof
end

section
/-! The obligations of the family `30_encoding`. -/

open Sys2Proof Sys2Proof.Machine

/-- Settles O17: an operation of the encoder is read back masked, which loses nothing when it is well-formed; a
packed block by the inverse of the transform; a call is its own encoding. -/
theorem decodeOfEncode : Obligations.DecodeOfEncode := by
  intro i hwf
  cases hi : isEncoderOp i with
  | true => rw [decode_encode_masked hi, (wf_iff_masked hi).mp hwf]
  | false =>
    cases i with
    | pack c K =>
      obtain ⟨h1, h8⟩ : 1 ≤ K.length ∧ K.length ≤ 8 := by simpa [Instr.wf] using hwf
      exact decode_pack c h1 h8
    | send c B => rfl
    | _ => cases hi

/-- Settles O16: the operations encoded as a byte are the builders, the ones encoded as a list the sequences. -/
theorem resultIsTheEncoding : Obligations.ResultIsTheEncoding := by
  refine ⟨fun i op s h => exec_of_builderOutput ((encode_eq_opcode_iff i op).mp h) s, fun i ops s h => ?_⟩
  cases i with
  | initSequence =>
    cases h
    rw [initTable_eq]
    rfl
  | setPosition col row =>
    cases h
    rw [encodePosition_eq]
    rfl
  | _ => cases h

/-- Settles O10: an operation does what its masked form does, and the encoder always completes. -/
theorem argumentsAreMaskedNotRejected : Obligations.ArgumentsAreMaskedNotRejected := fun v s =>
  ⟨(exec_masked (.contrast v) s).symm, (exec_masked (.line v) s).symm, (exec_masked (.page v) s).symm,
    (exec_masked (.colLo v) s).symm, (exec_masked (.colHi v) s).symm, (exec_masked (.contrast 40) s).symm,
    fun _ hi => (exec_of_isEncoderOp hi).imp' _ fun _ hr => hr s⟩

/-- Settles O13: a selector indexes the opcode map, and the map has eighteen rows. -/
theorem selectorMap : Obligations.SelectorMap :=
  ⟨fun _ => rfl, fun _ v h => decode_select_reserved h v,
    fun _ _ v _ _ hr hp hprog h => step_of_undecodable hr hp hprog (decode_select_reserved h v)⟩

/-- Settles O14: the rows are disjoint, each covers one range of bytes, and all but the 107 unproduced bytes
decode. -/
theorem opcodeMapInverse : Obligations.OpcodeMapInverse := by
  refine ⟨fun op => ⟨filter_matches_length_le_one op, fun h => ?_,
    decode_opcode_of_range (r := opcodeMap[4]) (List.getElem_mem _) rfl rfl,
    decode_opcode_of_range (r := opcodeMap[1]) (List.getElem_mem _) rfl rfl,
    decode_opcode_of_range (r := opcodeMap[0]) (List.getElem_mem _) rfl rfl,
    decode_opcode_of_range (r := opcodeMap[2]) (List.getElem_mem _) rfl rfl⟩, rfl, ?_⟩
  · have harg : op &&& 0x0F = op := (and_lowMask_eq_self_iff op 4 (by decide)).mpr (by omega)
    rw [decode_opcode_of_range (r := opcodeMap[3]) (List.getElem_mem _) rfl rfl (Nat.zero_le _) h]
    exact congrArg (Except.ok ∘ Instr.colLo) harg
  · have hproduced : ∀ n ∈ List.range 256, (decode (.opcode (BitVec.ofNat 8 n))).toOption.isSome =
        decide (¬ Unproduced n) := fun n hn => by
      have hn : n % 2 ^ 8 = n := Nat.mod_eq_of_lt (List.mem_range.mp hn)
      rw [Bool.eq_iff_iff, decode_opcode_isSome_iff, BitVec.toNat_ofNat, hn, decide_eq_true_iff]
    rw [List.filter_congr hproduced]
    rfl

/-- Settles O15: a byte is refused when no row matches it, and what a builder yields is its encoding, which
decodes. -/
theorem unproducedBytes : Obligations.UnproducedBytes := by
  refine fun op => ⟨unproduced_iff_decode op, fun i hout => ?_, fun s hp => ?_⟩
  · have hd := decode_encode_masked (isEncoderOp_of_builderOutput hout)
    rw [(encode_eq_opcode_iff i op).mpr hout] at hd
    exact ⟨_, hd⟩
  · rw [exec_send_idle hp, accept_of_ne_nil s _ (List.cons_ne_nil op [])]
    exact ⟨_, rfl, rfl, rfl⟩

/-- Settles O18: a byte is the output of what its row reads from it. -/
theorem encodeOfDecodedOpcode : Obligations.EncodeOfDecodedOpcode := by
  intro op i h
  obtain ⟨r, hr, hm, hd⟩ | ⟨-, hd⟩ := decode_opcode_cases op
  · obtain rfl : r.build (r.argument op) = i := Except.ok.inj (hd.symm.trans h)
    obtain ⟨hout, hmask⟩ := builderOutput_of_matches hr hm
    exact ⟨(wf_iff_masked (isEncoderOp_of_builderOutput hout)).mpr hmask, (encode_eq_opcode_iff _ _).mpr hout⟩
  · cases hd.symm.trans h

/-- Settles O20: each port by what the operation it stands for delivers. -/
theorem encoderPorts : Obligations.EncoderPorts := by
  have hout : ∀ (i : Instr) (op : Byte), builderOutput i = some op ↔
      ∀ s : State, exec i s = .next (s.record (.opcode op)) := fun i op =>
    ⟨exec_of_builderOutput, fun h => (exec_eq_record_opcode_iff i op State.reset).mp (h State.reset)⟩
  refine ⟨hout, fun sel v op => ?_, encPort_isSome_iff, fun col row => ?_, rfl⟩
  · rw [encPort_eq_some_iff]
    exact exists_congr fun i => and_congr_right fun _ => hout i op
  · obtain ⟨hlo, hhi, hpg⟩ := posPort_bytes col row
    rw [hlo, hhi, hpg]
    exact ⟨rfl, rfl, rfl, fun _ => rfl⟩
end

section
/-! The bytes of the encoder's builders and sequences. -/

namespace Sys2Proof

/-! ## The bits of the sequences -/

/-- The high nibbles a position sequence holds are those of its three builders (40_command_encoder.md R130). -/
theorem highNibble_of_mem_opsSetPosition {op col row : Byte} (h : op ∈ opsSetPosition col row) :
    op &&& 0xF0 ∈ [(0x00 : Byte), 0x10, 0xB0] := by
  have hlo : opColLo col &&& 0xF0 = 0x00 := opColLo_eq_or col ▸ fixed_or_field_and_mask rfl rfl col
  have hhi : opColHi col &&& 0xF0 = 0x10 := fixed_or_field_and_mask rfl rfl _
  have hpg : opPage row &&& 0xF0 = 0xB0 := fixed_or_field_and_mask rfl rfl row
  simp only [opsSetPosition, List.mem_cons, List.not_mem_nil, or_false] at h
  obtain rfl | rfl | rfl := h
  · rw [hlo]
    decide
  · rw [hhi]
    decide
  · rw [hpg]
    decide

theorem opLine_matches (v : Byte) : opLine v &&& 0xC0 = 0x40 := fixed_or_field_and_mask rfl rfl v

theorem opLine_not_mem_opsInitSequence (v : Byte) : opLine v ∉ opsInitSequence := by
  have hfixed : ∀ op ∈ opsInitSequence, op &&& 0xC0 ≠ 0x40 := by decide
  exact fun h => hfixed _ h (opLine_matches v)

theorem opLine_not_mem_opsSetPosition (v col row : Byte) : opLine v ∉ opsSetPosition col row := by
  have hfixed : ∀ x ∈ [(0x00 : Byte), 0x10, 0xB0], x &&& 0xC0 ≠ 0x40 := by decide
  intro h
  refine hfixed _ (highNibble_of_mem_opsSetPosition h) ?_
  rw [and_and_field rfl, opLine_matches]

/-! ## The builders as sums -/

/-- A field below fixed bits adds to them as a number (R131). -/
theorem toNat_append_extractLsb' {m k : Nat} (p : BitVec m) (v : Byte) (start : Nat) :
    (p ++ v.extractLsb' start k).toNat = p.toNat * 2 ^ k + v.toNat / 2 ^ start % 2 ^ k := by
  rw [BitVec.toNat_append, ← Nat.shiftLeft_add_eq_or_of_lt (BitVec.isLt _), Nat.shiftLeft_eq,
    BitVec.extractLsb'_toNat, Nat.shiftRight_eq_div_pow]

theorem toNat_append_lowBits {m k : Nat} (p : BitVec m) (v : Byte) :
    (p ++ v.extractLsb' 0 k).toNat = p.toNat * 2 ^ k + v.toNat % 2 ^ k := by
  rw [toNat_append_extractLsb', pow_zero, Nat.div_one]

theorem opContrast_toNat (v : Byte) : (opContrast v).toNat = 0x80 + v.toNat % 32 := by
  rw [opContrast_eq_append, toNat_append_lowBits]
  rfl

theorem opLine_toNat (v : Byte) : (opLine v).toNat = 0x40 + v.toNat % 64 := by
  rw [opLine_eq_append, toNat_append_lowBits]
  rfl

theorem opPage_toNat (v : Byte) : (opPage v).toNat = 0xB0 + v.toNat % 16 := by
  rw [opPage_eq_append, toNat_append_lowBits]
  rfl

theorem opColLo_toNat (v : Byte) : (opColLo v).toNat = v.toNat % 16 := by
  rw [opColLo_eq_append, toNat_append_lowBits]
  exact Nat.zero_add _

theorem opColHi_toNat (v : Byte) : (opColHi v).toNat = 0x10 + v.toNat / 16 % 8 := by
  rw [opColHi_eq_append, toNat_append_extractLsb']
  rfl

end Sys2Proof
end

section
/-! A call whose events are answered `ok` draws no free value. -/

namespace Sys2Proof.Machine

@[simp] theorem advance_draws (s : State) : s.advance.draws = s.draws := by
  obtain ⟨-, h⟩ | ⟨-, h⟩ := advance_cases s <;> rw [h]
  rfl

/-- Only a failed bus write and a block reset draw (log 8, 12). -/
theorem step_draws_of_ok {s t : State} {rest : List Answer} (hr : s.resetLine = false) (hp : s.phase ≠ .idle)
    (ha : s.answers = .ok :: rest) (hs : step s = .next t) : t.draws = s.draws := by
  cases hph : s.phase with
  | idle => exact absurd hph hp
  | select =>
    rw [step_select hr hph, stepSelect_ok ha] at hs
    cases hs
    rfl
  | write =>
    rw [step_write hr hph] at hs
    rw [stepWrite_ok (block_of_stepWrite hs) ha] at hs
    cases hs
    rfl
  | deselect =>
    rw [step_deselect hr hph, stepDeselect_ok ha] at hs
    cases hs
    simp

/-- As many events answered `ok` as the call has left end it without a draw. -/
theorem Calling.draws_of_run_oks {s₀ s u : State} {c : Classification} {B : List Byte} {rest : List Answer}
    (m : Nat) (h : Calling s₀ c B s) (hm : s.trace.length + m = (callEvents c B).length)
    (ha : s.answers = List.replicate m Answer.ok ++ rest) (hrun : runSteps m s = some u) : u.draws = s.draws := by
  induction m generalizing s with
  | zero =>
    cases hrun
    rfl
  | succ m ih =>
    obtain ⟨t, hs, hnext⟩ := h.step_ok ha
    have hdraws := step_draws_of_ok h.resetLine h.running ha hs
    rw [runSteps_succ hs] at hrun
    obtain ⟨ht, hlen, hans⟩ | ⟨hlast, -⟩ := hnext
    · rw [ih ht (by omega) hans hrun, hdraws]
    · obtain rfl : m = 0 := by omega
      cases hrun
      exact hdraws

end Sys2Proof.Machine
end

section
/-! What a builder delivers for a table of operands. -/

namespace Sys2Proof.Machine

/-- A builder delivers what a table of operands and outputs lists, once the table lists its outputs. -/
theorem exec_of_table {α : Type} {build : α → Instr} {table : List (α × Byte)}
    (h : table.map (fun p => builderOutput (build p.1)) = table.map fun p => some p.2) (s : State) (p : α × Byte)
    (hp : p ∈ table) : exec (build p.1) s = .next (s.record (.opcode p.2)) :=
  exec_of_builderOutput (List.map_inj_left.mp h p hp) s

end Sys2Proof.Machine
end

section
/-! The obligations of the family `40_command_encoder`. -/

open Sys2Proof Sys2Proof.Machine

/-- Settles O1: a builder delivers its output, which is its encoding. -/
theorem contrastBuildsItsOpcode : Obligations.ContrastBuildsItsOpcode :=
  ⟨fun v s => ⟨exec_of_builderOutput rfl s, opContrast_eq_append v⟩,
    exec_of_table (build := .contrast) (by decide)⟩

/-- Settles O2: as O1, and no byte of a sequence has the fixed bits of `LINE`. -/
theorem lineBuildsItsOpcode : Obligations.LineBuildsItsOpcode :=
  ⟨fun v s => ⟨exec_of_builderOutput rfl s, opLine_eq_append v, opLine_not_mem_opsInitSequence v,
      opLine_not_mem_opsSetPosition v⟩,
    exec_of_table (build := .line) (by decide)⟩

/-- Settles O3: as O1. -/
theorem pageBuildsItsOpcode : Obligations.PageBuildsItsOpcode :=
  ⟨fun v s => ⟨exec_of_builderOutput rfl s, opPage_eq_append v⟩,
    exec_of_table (build := .page) (by decide)⟩

/-- Settles O4: as O1. -/
theorem colLoBuildsItsOpcode : Obligations.ColLoBuildsItsOpcode :=
  ⟨fun v s => ⟨exec_of_builderOutput rfl s, opColLo_eq_append v⟩,
    exec_of_table (build := .colLo) (by decide)⟩

/-- Settles O5: as O1; setting bit 7 leaves the masked argument, which is what counts. -/
theorem colHiBuildsItsOpcode : Obligations.ColHiBuildsItsOpcode := by
  refine ⟨fun v s => ⟨exec_of_builderOutput rfl s, opColHi_eq_append v, ?_⟩,
    exec_of_table (build := .colHi) (by decide)⟩
  have hmasked : (Instr.colHi (v ||| 0x80)).masked = (Instr.colHi v).masked := by
    simp [Instr.masked, BitVec.and_or_distrib_right]
  rw [← exec_masked, hmasked, exec_masked]

/-- Settles O6: the builders deliver their outputs; the position sequence has other high nibbles than the two bytes
in no sequence. -/
theorem fixedOpcodesBuildTheirBytes : Obligations.FixedOpcodesBuildTheirBytes := by
  refine ⟨exec_of_table (build := id) (by decide), rfl, rfl, rfl, rfl, rfl, rfl, fun op hop => ?_⟩
  have hno : ∀ op ∈ [(0x28 : Byte), 0xAE], op ∉ opsInitSequence ∧ op &&& 0xF0 ∉ [(0x00 : Byte), 0x10, 0xB0] := by
    decide
  obtain ⟨hinit, hnibble⟩ := hno op hop
  exact ⟨hinit, fun _ _ h => hnibble (highNibble_of_mem_opsSetPosition h)⟩

/-- Settles O7: the call that carries the byte is one frame, walked under three `ok` answers. -/
theorem resetByteIsAnOrdinaryByte : Obligations.ResetByteIsAnOrdinaryByte := by
  refine ⟨exec_of_builderOutput rfl, fun s rest hp hr ha => ?_⟩
  have hwhole : sendWhole .command [0xE2] s.answers s.cs =
      ⟨allOk [.csLow, .busWrite [0x71, 0x00], .csHigh], some .ok, rest, .high⟩ := by
    rw [ha]
    rfl
  obtain ⟨u, hrun, hret⟩ := call_returns hr (congrArg CallResult.status hwhole)
  rw [hwhole] at hrun hret
  obtain ⟨hcall, htrace, hans⟩ := calling_accept hr .command (List.cons_ne_nil (0xE2 : Byte) [])
  have hdraws := hcall.draws_of_run_oks 3 (by rw [htrace]; rfl) (hans.trans ha) hrun
  exact ⟨_, u, exec_send_idle hp _ _, hrun, hret.phase, hret.history, hdraws⟩

/-- Settles O8: the initialization table is the list by operation names. -/
theorem initSequenceIsTheFixedList : Obligations.InitSequenceIsTheFixedList :=
  ⟨fun s => resultIsTheEncoding.2 .initSequence initTable s rfl, rfl, rfl, rfl, by decide, rfl⟩

/-- Settles O9: the sequence is delivered as it is built, and built as listed. -/
theorem setPositionIsThreeOpcodes : Obligations.SetPositionIsThreeOpcodes := by
  have hexec : ∀ (col row : Byte) (s : State),
      exec (.setPosition col row) s = .next (s.record (.opcodes (opsSetPosition col row))) := fun _ _ _ => rfl
  refine ⟨hexec, fun s p hp => ?_⟩
  have hops : opsSetPosition p.1 p.2.1 = p.2.2 := by clear s; decide +revert
  rw [hexec, hops]
  rfl

/-- Settles O11: each builder puts its field below its constant, and the column is the sum of its two fields. -/
theorem orIsAdditionInBuilders : Obligations.OrIsAdditionInBuilders := by
  intro v
  refine ⟨opContrast_toNat v, opLine_toNat v, opPage_toNat v, opColLo_toNat v, opColHi_toNat v, fun hv => ?_⟩
  rw [opColHi_toNat, opColLo_toNat]
  omega
end

section
/-! The packing function: every bit of its stream, its injectivity, and its closed forms. -/

namespace Sys2Proof

/-! ## The stream and the bytes -/

/-- Every bit of the stream, and the zeros past its end (41_bitpack_transmitter.md R141). -/
theorem bitStream_getD (c : Classification) (K : List Byte) (j : Nat) :
    (bitStream c K).getD j false =
      if j < 9 * K.length then
        if j % 9 = 0 then c.bit else (K.getD (j / 9) 0).getLsbD (7 - (j % 9 - 1))
      else false := by
  by_cases hj : j < 9 * K.length
  · have hi : j / 9 < K.length := by omega
    by_cases h0 : j % 9 = 0
    · have hpos : j = 9 * (j / 9) := by omega
      rw [if_pos hj, if_pos h0, hpos, bitStream_controlBit c K _ hi]
    · have hpos : 9 * (j / 9) + (j % 9 - 1 + 1) = j := by omega
      rw [if_pos hj, if_neg h0, ← bitStream_dataBit c K _ _ hi (by omega), hpos]
  · rw [if_neg hj, bitStream_pastEnd c K j (by omega)]

/-- A list of bytes with the bits of the stream is the packed block. -/
theorem pack_eq_map_of_bits (c : Classification) {K : List Byte} (h1 : 1 ≤ K.length) (h8 : K.length ≤ 8)
    {g : Nat → Byte}
    (h : ∀ k ≤ K.length, ∀ m < 8, (bitStream c K).getD (8 * k + m) false = (g k).getLsbD (7 - m)) :
    pack c K = (List.range (K.length + 1)).map g := by
  rw [pack, outCount_of_block h1 h8]
  refine List.map_congr_left fun k hk => byteOfBits_eq (h k ?_)
  exact Nat.le_of_lt_succ (List.mem_range.mp hk)

/-- Packing loses neither the bytes nor the classification (R153). -/
theorem pack_inj {c d : Classification} {K J : List Byte} (hK : 1 ≤ K.length ∧ K.length ≤ 8)
    (hJ : 1 ≤ J.length ∧ J.length ≤ 8) (h : pack c K = pack d J) : c = d ∧ K = J := by
  have hunpack := congrArg unpack h
  rw [unpack_pack c hK.1 hK.2, unpack_pack d hJ.1 hJ.2, Prod.mk.injEq, Prod.mk.injEq] at hunpack
  obtain ⟨hbits, rfl, -⟩ := hunpack
  have hbit : c.bit = d.bit := List.eq_of_mem_replicate (hbits ▸ List.mem_replicate.mpr ⟨by omega, rfl⟩)
  exact ⟨by rw [← ofBit_bit c, hbit, ofBit_bit], rfl⟩

/-! ## Byte by byte -/

@[simp] theorem Classification.byte_getLsbD (c : Classification) (j : Nat) :
    c.byte.getLsbD j = (decide (j = 0) && c.bit) := by
  rw [Classification.byte, BitVec.getLsbD_setWidth, BitVec.getLsbD_ofBool]
  by_cases hj : j = 0 <;> simp [hj]

/-- Output byte `k` inside a block: the rest of word `k - 1`, the control bit of word `k` and the bits of byte `k`
that still fit (R142). -/
theorem bitStream_bit_inside (c : Classification) {K : List Byte} (h8 : K.length ≤ 8) {k m : Nat}
    (hk : k < K.length) (hm : m < 8) :
    (bitStream c K).getD (8 * k + m) false =
      ((K.getD (k - 1) 0 <<< (8 - k)) ||| (c.byte <<< (7 - k)) ||| (K.getD k 0 >>> (k + 1))).getLsbD (7 - m) := by
  have hm' : 7 - m < 8 := by omega
  simp only [BitVec.getLsbD_or, BitVec.getLsbD_shiftLeft, BitVec.getLsbD_ushiftRight, Classification.byte_getLsbD]
  obtain hlt | rfl | hgt := Nat.lt_trichotomy m k
  · have hpos : 8 * k + m = 9 * (k - 1) + (m + 8 - k + 1) := by omega
    have hbit : 7 - (m + 8 - k) = 7 - m - (8 - k) := by omega
    have hword : ¬ 7 - m < 8 - k := by omega
    have hcontrol : 7 - m - (7 - k) ≠ 0 := by omega
    have hnext : (K.getD k 0).getLsbD (k + 1 + (7 - m)) = false := BitVec.getLsbD_of_ge _ _ (by omega)
    rw [hpos, bitStream_dataBit c K _ _ (by omega) (by omega), hbit, hnext]
    simp [hm', hword, hcontrol]
  · have hpos : 8 * m + m = 9 * m := by omega
    have hword : 7 - m < 8 - m := by omega
    have hnext : (K.getD m 0).getLsbD (m + 1 + (7 - m)) = false := BitVec.getLsbD_of_ge _ _ (by omega)
    rw [hpos, bitStream_controlBit c K _ hk, hnext]
    simp [hm', hword]
  · have hpos : 8 * k + m = 9 * k + (m - k - 1 + 1) := by omega
    have hbit : 7 - (m - k - 1) = k + 1 + (7 - m) := by omega
    have hword : 7 - m < 8 - k := by omega
    have hcontrol : 7 - m < 7 - k := by omega
    rw [hpos, bitStream_dataBit c K _ _ hk (by omega), hbit]
    simp [hword, hcontrol]

theorem pack_eq_packByBytes (c : Classification) {K : List Byte} (h1 : 1 ≤ K.length) (h8 : K.length ≤ 8) :
    pack c K = packByBytes c K := by
  refine pack_eq_map_of_bits c h1 h8 fun k hk m hm => ?_
  by_cases hlast : k < K.length
  · have hinside := bitStream_bit_inside c h8 hlast hm
    by_cases h0 : k = 0
    · subst h0
      simpa using hinside
    · rwa [if_neg h0, if_pos hlast]
  · obtain rfl : k = K.length := by omega
    rw [if_neg (by omega), if_neg hlast, ← pack_lastByte c h1 h8, pack_getLsbD c h1 h8 le_rfl hm]

/-! ## As one number -/

/-- The first word of a block is the most significant one. -/
theorem wordsNumber_cons (c : Classification) (b : Byte) (K : List Byte) :
    wordsNumber c (b :: K) = 2 ^ (9 * K.length) * (2 ^ 8 * c.byte.toNat + b.toNat) + wordsNumber c K := by
  rw [Nat.mul_comm (2 ^ (9 * K.length)), wordsNumber, wordsNumber, List.length_cons, List.range_succ_eq_map]
  simp [Function.comp_def, Nat.sub_sub, Nat.add_comm 1]

/-- A word as a number: its top bit is the control bit, the others are those of its byte (30_encoding.md R82). -/
theorem word_testBit (c : Classification) (b : Byte) (j : Nat) (hj : j < 9) :
    (2 ^ 8 * c.byte.toNat + b.toNat).testBit (8 - j) = (c.bit :: byteBits b).getD j false := by
  rw [Nat.testBit_two_pow_mul_add _ b.isLt]
  cases j with
  | zero => exact c.byte_getLsbD 0
  | succ m => rw [if_pos (by omega), List.getD_cons_succ, byteBits_getD b m (by omega), Nat.succ_sub_succ]; rfl

theorem wordsNumber_lt (c : Classification) (K : List Byte) : wordsNumber c K < 2 ^ (9 * K.length) := by
  induction K with
  | nil => simp [wordsNumber]
  | cons b K ih =>
    have hc : c.byte.toNat ≤ 1 := by cases c <;> decide
    have hb := b.isLt
    calc wordsNumber c (b :: K)
        < 2 ^ (9 * K.length) * (2 ^ 8 * c.byte.toNat + b.toNat + 1) := by rw [wordsNumber_cons]; linarith
      _ ≤ 2 ^ (9 * K.length) * 2 ^ 9 := Nat.mul_le_mul_left _ (by omega)
      _ = 2 ^ (9 * (b :: K).length) := by rw [← pow_add, List.length_cons, Nat.mul_succ]

/-- The number's bits, from the top, are the stream. -/
theorem wordsNumber_testBit (c : Classification) (K : List Byte) (j : Nat) (hj : j < 9 * K.length) :
    (wordsNumber c K).testBit (9 * K.length - 1 - j) = (bitStream c K).getD j false := by
  induction K generalizing j with
  | nil => simp at hj
  | cons b K ih =>
    have hstream : bitStream c (b :: K) = (c.bit :: byteBits b) ++ bitStream c K := rfl
    have hlen : (c.bit :: byteBits b).length = 9 := rfl
    rw [List.length_cons] at hj ⊢
    rw [wordsNumber_cons, Nat.testBit_two_pow_mul_add _ (wordsNumber_lt c K), hstream]
    by_cases h9 : j < 9
    · have hpos : 9 * (K.length + 1) - 1 - j - 9 * K.length = 8 - j := by omega
      rw [if_neg (by omega), List.getD_append _ _ _ _ h9, hpos, word_testBit c b j h9]
    · rw [if_pos (by omega), List.getD_append_right _ _ _ _ (by omega), hlen, ← ih _ (by omega)]
      congr 1
      omega

theorem pack_eq_packByNumber (c : Classification) {K : List Byte} (h1 : 1 ≤ K.length) (h8 : K.length ≤ 8) :
    pack c K = packByNumber c K := by
  refine pack_eq_map_of_bits c h1 h8 fun k hk m hm => ?_
  rw [BitVec.getLsbD_ofNat, Nat.testBit_div_two_pow, Nat.testBit_mul_two_pow]
  by_cases hj : 8 * k + m < 9 * K.length
  · rw [← wordsNumber_testBit c K _ hj]
    have hpos : 9 * K.length - 1 - (8 * k + m) = 7 - m + 8 * (K.length - k) - (8 - K.length) := by omega
    rw [hpos]
    have hfits : 8 - K.length ≤ 7 - m + 8 * (K.length - k) := by omega
    simp [hfits, show 7 - m < 8 by omega]
  · rw [bitStream_pastEnd c K _ (by omega)]
    have : ¬ 8 - K.length ≤ 7 - m + 8 * (K.length - k) := by omega
    simp [this]

end Sys2Proof
end

section
/-! The blocks of a call and the bytes its bus writes carry. -/

namespace Sys2Proof.Machine

/-! ## The greedy partition -/

theorem cutBlocks_flatten (fuel : Nat) (B : List Byte) (h : B.length ≤ fuel) : (cutBlocks fuel B).flatten = B := by
  induction fuel generalizing B with
  | zero => rw [List.length_eq_zero_iff.mp (Nat.le_zero.mp h)]; rfl
  | succ fuel ih =>
    cases B with
    | nil => rfl
    | cons b bs =>
      have hrest : ((b :: bs).drop Config.blockMax).length ≤ fuel := by
        rw [List.length_drop, Config.blockMax]
        omega
      rw [cutBlocks, List.flatten_cons, ih _ hrest, List.take_append_drop]

/-- The blocks of a call in order are its bytes (41_bitpack_transmitter.md R145). -/
@[simp] theorem blocks_flatten (B : List Byte) : (blocks B).flatten = B := cutBlocks_flatten _ _ le_rfl

/-- Block `j` is as long as 8 bytes or what is left of the call allow. -/
theorem length_of_blocks_getElem? {B K : List Byte} {j : Nat} (h : (blocks B)[j]? = some K) :
    8 * j < B.length ∧ K.length = min 8 (B.length - 8 * j) := by
  rw [blocks_getElem?] at h
  split at h
  · obtain rfl := Option.some.inj h
    exact ⟨‹_›, by rw [List.length_take, List.length_drop]⟩
  · cases h

theorem length_of_mem_blocks {B K : List Byte} (h : K ∈ blocks B) : 1 ≤ K.length ∧ K.length ≤ 8 := by
  obtain ⟨j, hj⟩ := List.mem_iff_getElem?.mp h
  obtain ⟨hlt, hlen⟩ := length_of_blocks_getElem? hj
  omega

/-- A block that is not the last one is full. -/
theorem length_of_mem_dropLast_blocks {B K : List Byte} (h : K ∈ (blocks B).dropLast) : K.length = 8 := by
  obtain ⟨j, hj⟩ := List.mem_iff_getElem?.mp h
  rw [List.getElem?_dropLast, blocks_length] at hj
  split at hj
  · obtain ⟨-, hlen⟩ := length_of_blocks_getElem? hj
    omega
  · cases hj

/-- The last block is the remainder, or a full one. -/
theorem length_of_getLast?_blocks {B K : List Byte} (h : (blocks B).getLast? = some K) :
    K.length = B.length - 8 * ((B.length - 1) / 8) := by
  rw [List.getLast?_eq_getElem?, blocks_length] at h
  obtain ⟨-, hlen⟩ := length_of_blocks_getElem? h
  omega

/-! ## The bus writes -/

theorem busWrites_flatMap_blockEvents (c : Classification) (L : List (List Byte)) :
    busWrites (L.flatMap (blockEvents c)) = L.map (pack c) := by
  rw [busWrites, List.filterMap_flatMap, List.map_eq_flatMap]
  rfl

/-- The bus writes of a call are its blocks, packed. -/
@[simp] theorem busWrites_callEvents (c : Classification) (B : List Byte) :
    busWrites (callEvents c B) = (blocks B).map (pack c) := busWrites_flatMap_blockEvents c _

/-- A packed block of a call read back. -/
theorem unpack_pack_of_mem_blocks (c : Classification) {B K : List Byte} (h : K ∈ blocks B) :
    unpack (pack c K) = (List.replicate K.length c.bit, K, List.replicate (8 - K.length) false) := by
  obtain ⟨h1, h8⟩ := length_of_mem_blocks h
  exact unpack_pack c h1 h8

/-- Each frame adds one byte to the bytes of its block (R155). -/
theorem length_flatten_map_pack (c : Classification) (L : List (List Byte))
    (h : ∀ K ∈ L, 1 ≤ K.length ∧ K.length ≤ 8) :
    (L.map (pack c)).flatten.length = L.flatten.length + L.length := by
  induction L with
  | nil => rfl
  | cons K L ih =>
    obtain ⟨⟨h1, h8⟩, hL⟩ := List.forall_mem_cons.mp h
    simp only [List.map_cons, List.flatten_cons, List.length_append, List.length_cons, ih hL,
      pack_length_of_block c h1 h8]
    omega

/-- An event that every frame has once occurs once a frame. -/
theorem count_flatMap_blockEvents (c : Classification) (L : List (List Byte)) {e : Event}
    (h : ∀ K, (blockEvents c K).count e = 1) : (L.flatMap (blockEvents c)).count e = L.length := by
  simp [List.count_flatMap, Function.comp_def, h]

/-! ## The trace of a call -/

/-- While a call waits, its trace is a proper beginning of its frames. -/
theorem sendBlocks_trace_of_waiting (c : Classification) (L : List (List Byte)) (ans : List Answer) (cs : Level)
    (h : (sendBlocks c L ans cs).status = none) :
    ∃ k < (L.flatMap (blockEvents c)).length,
      (sendBlocks c L ans cs).trace = allOk ((L.flatMap (blockEvents c)).take k) := by
  induction L, ans, cs using sendBlocks.induct with
  | case1 | case3 | case5 | case7 => cases h
  | case2 K L cs => exact ⟨0, by simp [blockEvents], rfl⟩
  | case4 K L cs => exact ⟨1, by simp [blockEvents], rfl⟩
  | case6 K L cs => exact ⟨2, by simp [blockEvents], rfl⟩
  | case8 K L ans cs ih =>
    obtain ⟨k, hk, htrace⟩ := ih h
    refine ⟨k + 3, by simpa [blockEvents] using hk, ?_⟩
    rw [sendBlocks, CallResult.after, htrace]
    rfl

/-- The trace of a call is its frames, whole, cut at the failed event, or cut where the answers end
(41_bitpack_transmitter.md R151). -/
theorem sendWhole_trace_cases (c : Classification) (B : List Byte) (ans : List Answer) (cs : Level) :
    ((sendWhole c B ans cs).status = some .ok ∧ (sendWhole c B ans cs).trace = allOk (callEvents c B)) ∨
    ((sendWhole c B ans cs).status = some .commFail ∧ ∃ (k : Nat) (e : Event), (callEvents c B)[k]? = some e ∧
      (sendWhole c B ans cs).trace = allOk ((callEvents c B).take k) ++ [(e, .fail)]) ∨
    ((sendWhole c B ans cs).status = none ∧ ∃ k < (callEvents c B).length,
      (sendWhole c B ans cs).trace = allOk ((callEvents c B).take k)) := by
  obtain ⟨rest, -, hw⟩ | ⟨k, e, rest, he, -, hw⟩ | hw := sendWhole_cases c B ans
  · rw [hw]
    exact .inl ⟨rfl, rfl⟩
  · rw [hw]
    exact .inr (.inl ⟨rfl, k, e, he, rfl⟩)
  · have hwait := hw cs
    refine .inr (.inr ⟨hwait, ?_⟩)
    rw [sendWhole] at hwait ⊢
    exact sendBlocks_trace_of_waiting c _ ans cs hwait

theorem sendWhole_trace_length_le (c : Classification) (B : List Byte) (ans : List Answer) (cs : Level) :
    (sendWhole c B ans cs).trace.length ≤ (callEvents c B).length := by
  obtain ⟨-, ht⟩ | ⟨-, k, e, he, ht⟩ | ⟨-, k, -, ht⟩ := sendWhole_trace_cases c B ans cs <;> rw [ht]
  · rw [allOk_length]
  · obtain ⟨hk, -⟩ := List.getElem?_eq_some_iff.mp he
    simp only [List.length_append, allOk_length, List.length_take, List.length_singleton]
    omega
  · rw [allOk_length]
    exact List.length_take_le' _ _

end Sys2Proof.Machine
end

section
/-! What a step writes, moves and completes. -/

namespace Sys2Proof.Machine

/-! ## The scratch buffer -/

theorem writeScratch_cell (s : State) (out : List Byte) (k : Fin 9) :
    (s.writeScratch out).scratch[k] = if k.val < out.length then out.getD k.val 0 else s.scratch[k] := by
  by_cases hk : k.val < out.length <;> simp [hk]

/-- Writing a packed block fills the cells from 0 to its size and leaves the others (R141). -/
theorem writeScratch_pack_cell (s : State) (c : Classification) {K : List Byte} (h1 : 1 ≤ K.length)
    (h8 : K.length ≤ 8) (k : Fin 9) :
    (s.writeScratch (pack c K)).scratch[k] =
      if k.val ≤ K.length then (pack c K).getD k.val 0 else s.scratch[k] := by
  rw [writeScratch_cell, pack_length_of_block c h1 h8]
  simp only [Nat.lt_succ_iff]

theorem writeScratch_nil (s : State) : s.writeScratch [] = s := by
  simp [State.writeScratch]

theorem exec_pack_of_le (c : Classification) {K : List Byte} (h8 : K.length ≤ 8) (s : State) :
    exec (.pack c K) s = .next ((s.writeScratch (pack c K)).record (.packed (pack c K))) := if_pos h8

theorem exec_pack_of_gt (c : Classification) {K : List Byte} (h : 8 < K.length) (s : State) :
    exec (.pack c K) s = .refused .blockTooLong := if_neg (Nat.not_le.mpr h)

/-! ## The call -/

theorem exec_send_of_ne_idle {s : State} (h : s.phase ≠ .idle) (c : Classification) (B : List Byte) :
    exec (.send c B) s = .refused .callInProgress := if_neg h

theorem raiseCommFail_eq (s : State) :
    s.raiseCommFail = { s with phase := .idle, outstanding := none, trace := [], program := s.program.tail,
                               history := s.history ++ [.returned s.trace .commFail] } := rfl

theorem accept_nil (s : State) (c : Classification) :
    s.accept c [] = { s with cLat := c, idx := 0, bytes := [], outstanding := none, trace := [], phase := .idle,
                             history := s.history ++ [.returned [] .ok] } := rfl

theorem advance_of_lt {s : State} (h : s.idx + s.nCur < s.bytes.length) :
    s.advance = { s with idx := s.idx + s.nCur, nCur := blockSize s.bytes.length (s.idx + s.nCur), phase := .select } :=
  if_pos h

theorem advance_of_not_lt {s : State} (h : ¬ s.idx + s.nCur < s.bytes.length) :
    s.advance = { s with idx := s.idx + s.nCur }.endCall .ok := if_neg h

@[simp] theorem advance_idx (s : State) : s.advance.idx = s.idx + s.nCur := by
  obtain ⟨-, h⟩ | ⟨-, h⟩ := advance_cases s <;> rw [h]
  rfl

/-- The current block of a call in progress ends inside the call (R145). -/
theorem idx_add_nCur_le {s : State} (hc : s.inCall) : s.idx + s.nCur ≤ s.bytes.length := by
  obtain ⟨hlt, -, hn, -⟩ := hc
  rw [hn, blockSize]
  omega

/-- Only WRITE issues a bus write: the current block, packed (R148). -/
theorem write_of_nextEvent_busWrite {s : State} {ws : List Byte} (h : s.nextEvent = some (.busWrite ws)) :
    s.phase = .write ∧ pack s.cLat s.block = ws := by
  cases hp : s.phase with
  | idle | select | deselect => simp [State.nextEvent, hp] at h
  | write => exact ⟨rfl, by simpa [State.nextEvent, hp] using h⟩

/-- In WRITE the last event of a call in progress is the `CsLow` of the current frame, answered `ok` (R151). -/
theorem trace_getLast?_of_write {s : State} (hc : s.inCall) (hp : s.phase = .write) :
    s.trace.getLast? = some (.csLow, .ok) := by
  obtain ⟨hlt, h8, -, ht⟩ := hc
  have hlow := callEvents_getElem? s.cLat s.bytes s.idx 0 (by decide) hlt h8
  rw [hp, Phase.eventsDone, ← allOk_take_succ _ _ _ hlow] at ht
  rw [ht, List.getLast?_concat]

/-! ## Every step completes, but for a request the decoder rejects -/

theorem decodePosition_ne_pack (ops : List Byte) (c : Classification) (K : List Byte) :
    decodePosition ops ≠ some (.pack c K) := by
  unfold decodePosition
  split
  · split <;> exact nofun
  · exact nofun

/-- A block is read back from at most 9 bytes (30_encoding.md R83). -/
theorem length_le_of_decodeBlock {out : List Byte} {c : Classification} {K : List Byte}
    (h : decodeBlock out = some (.pack c K)) : K.length ≤ 8 := by
  simp only [decodeBlock, Option.ite_none_right_eq_some, Option.some.injEq, Instr.pack.injEq] at h
  obtain ⟨⟨-, h9, -⟩, -, rfl⟩ := h
  rw [unpack, List.length_map, List.length_range]
  omega

/-- No request names a `PACK` outside the domain of R141. -/
theorem length_le_of_decode_pack {r : Request} {c : Classification} {K : List Byte}
    (h : decode r = .ok (.pack c K)) : K.length ≤ 8 := by
  have hbuilder : ∀ row ∈ opcodeMap, ∀ v, row.build v ≠ .pack c K := fun row hrow v hv => by
    have hsome := builderOutput_build_isSome hrow v
    rw [hv] at hsome
    cases hsome
  cases r with
  | opcode op =>
    obtain ⟨row, hrow, -, hd⟩ | ⟨-, hd⟩ := decode_opcode_cases op
    · exact absurd (Except.ok.inj (hd.symm.trans h)) (hbuilder row hrow _)
    · cases hd.symm.trans h
  | select sel v =>
    by_cases hsel : sel.toNat < 18
    · exact absurd (Except.ok.inj ((decode_select_of_lt hsel v).symm.trans h)) (hbuilder _ (List.getElem_mem _) _)
    · cases (decode_select_reserved (by omega) v).symm.trans h
  | sequence ops =>
    rw [decode] at h
    split at h
    · cases h
    · cases hpos : decodePosition ops with
      | none => simp [hpos] at h
      | some i =>
        obtain rfl : i = .pack c K := by simpa [hpos] using h
        exact absurd hpos (decodePosition_ne_pack ops c K)
  | block out =>
    cases hblock : decodeBlock out with
    | none => simp [decode, hblock] at h
    | some i =>
      obtain rfl : i = .pack c K := by simpa [decode, hblock] using h
      exact length_le_of_decodeBlock hblock
  | position | call => cases h

/-- What the decoder answers runs to completion in IDLE. -/
theorem exec_of_decode {r : Request} {i : Instr} {s : State} (hd : decode r = .ok i) (hp : s.phase = .idle) :
    ∃ t, exec i s = .next t := by
  cases hi : isEncoderOp i with
  | true => exact (exec_of_isEncoderOp hi).imp' _ fun _ hr => hr s
  | false =>
    cases i with
    | pack c K => exact ⟨_, exec_pack_of_le c (length_le_of_decode_pack hd) s⟩
    | send c B => exact ⟨_, exec_send_idle hp c B⟩
    | _ => cases hi

/-- In IDLE a step completes, or refuses by name a request that the decoder rejects. -/
theorem stepHost_completes {s : State} (hp : s.phase = .idle) :
    (∃ t, stepHost s = .next t) ∨ ∃ why, stepHost s = .refused (.undecodable why) := by
  obtain ⟨-, hm⟩ | ⟨later, -, hm⟩ | ⟨us, acts, later, -, hm⟩ | ⟨r, acts, later, -, hm⟩ := hostMove_cases s <;>
    simp only [stepHost, hm]
  · exact .inl ⟨_, rfl⟩
  · exact .inl ⟨_, rfl⟩
  · exact .inl ⟨_, rfl⟩
  · cases hd : decode r with
    | ok i => exact .inl (exec_of_decode hd hp)
    | error why => exact .inr ⟨why, rfl⟩

/-- During a call a step completes, whatever the environment answers, and the cursor moves only when `CsHigh` is
answered `ok` (R156). -/
theorem step_completes_of_call {s : State} (h : s.inv) (hr : s.resetLine = false) (hp : s.phase ≠ .idle) :
    ∃ t, step s = .next t ∧ (t.idx = s.idx ∨
      (s.phase = .deselect ∧ s.answers.head? = some .ok ∧ t.idx = s.idx + s.nCur)) := by
  obtain ⟨hc, -⟩ := (inv_iff_of_call hp).mp h
  have hb := block_length_of_inCall hc
  cases hph : s.phase with
  | idle => exact absurd hph hp
  | select =>
    rw [step_select hr hph]
    match ha : s.answers with
    | [] => exact ⟨_, stepSelect_silent ha, .inl rfl⟩
    | .ok :: _ => exact ⟨_, stepSelect_ok ha, .inl rfl⟩
    | .fail :: _ => exact ⟨_, stepSelect_fail ha, .inl rfl⟩
  | write =>
    rw [step_write hr hph]
    match ha : s.answers with
    | [] => exact ⟨_, stepWrite_silent hb ha, .inl (by simp)⟩
    | .ok :: _ => exact ⟨_, stepWrite_ok hb ha, .inl (by simp)⟩
    | .fail :: _ => exact ⟨_, stepWrite_fail hb ha, .inl (by simp)⟩
  | deselect =>
    rw [step_deselect hr hph]
    match ha : s.answers with
    | [] => exact ⟨_, stepDeselect_silent ha, .inl rfl⟩
    | .ok :: _ => exact ⟨_, stepDeselect_ok ha, .inr ⟨rfl, rfl, advance_idx _⟩⟩
    | .fail :: _ => exact ⟨_, stepDeselect_fail ha, .inl rfl⟩

/-- Under the invariant a step completes, or refuses by name a request that the decoder rejects. -/
theorem step_completes {s : State} (h : s.inv) :
    (∃ t, step s = .next t) ∨ (s.phase = .idle ∧ ∃ why, step s = .refused (.undecodable why)) := by
  cases hr : s.resetLine with
  | true => exact .inl ⟨_, if_pos hr⟩
  | false =>
    by_cases hp : s.phase = .idle
    · rw [step_idle hr hp]
      exact (stepHost_completes hp).imp_right (⟨hp, ·⟩)
    · exact .inl ((step_completes_of_call h hr hp).imp fun _ ⟨hs, _⟩ => hs)

end Sys2Proof.Machine
end

section
/-! The obligations of the family `41_bitpack_transmitter`. -/

open Sys2Proof Sys2Proof.Machine

/-- Settles O29: the inverse of the transform reads back the block, so it tells two blocks apart. -/
theorem unpackInvertsPack : Obligations.UnpackInvertsPack :=
  ⟨fun c _ h1 h8 => unpack_pack c h1 h8,
    fun _ _ _ _ hK1 hK8 hJ1 hJ8 h => pack_inj ⟨hK1, hK8⟩ ⟨hJ1, hJ8⟩ h⟩

/-- Settles O56: the bus writes are the blocks packed, and each block is read back. -/
theorem callCarriesItsBytes : Obligations.CallCarriesItsBytes := by
  intro c B
  rw [busWrites_callEvents]
  refine ⟨?_, ?_, ?_⟩
  · rintro ws hws
    obtain ⟨K, hK, rfl⟩ := List.mem_map.mp hws
    obtain ⟨h1, h8⟩ := length_of_mem_blocks hK
    exact ⟨K, h1, h8, rfl⟩
  · have hread : ∀ K ∈ blocks B, (unpack (pack c K)).2.1 = K := fun K hK => by
      rw [unpack_pack_of_mem_blocks c hK]
    rw [List.flatMap_map, List.flatMap_congr hread, List.flatMap_id', blocks_flatten]
  · intro ws hws b hb
    obtain ⟨K, hK, rfl⟩ := List.mem_map.mp hws
    rw [unpack_pack_of_mem_blocks c hK] at hb
    exact List.eq_of_mem_replicate hb

/-- Settles O25: the delivered bytes hold the stream bit by bit, and are what is written to the scratch buffer. -/
theorem packFollowsTheBitStream : Obligations.PackFollowsTheBitStream := by
  refine ⟨fun c K s h1 h8 => ?_, by decide, by decide, by decide⟩
  refine ⟨pack c K, (s.writeScratch (pack c K)).scratch, exec_pack_of_le c h8 s, pack_length_of_block c h1 h8,
    fun k m hk hm => ?_, writeScratch_pack_cell s c h1 h8⟩
  rw [pack_getLsbD c h1 h8 hk hm, bitStream_getD]

/-- Settles O28: each closed form has the bits of the stream. -/
theorem packClosedForms : Obligations.PackClosedForms :=
  fun c _ h1 h8 => ⟨pack_eq_packByBytes c h1 h8, pack_eq_packByNumber c h1 h8⟩

/-- Settles O35: under the invariant the current block has 1 to 8 bytes, and a write sends it packed. -/
theorem writeStep : Obligations.WriteStep := by
  intro s rest hinv hr hp
  obtain ⟨hc, -, -⟩ := (inv_iff_of_call (by simp [hp])).mp hinv
  have hb := block_length_of_inCall hc
  have hn : s.block.length = s.nCur := by
    obtain ⟨-, -, hgr, -⟩ := hc
    exact (block_of_greedy hgr).2
  refine ⟨pack s.cLat s.block, s.packed.scratch, rfl, ?_, ?_, fun ha => ?_, fun ha => ?_⟩
  · rw [pack_length_of_block _ hb.1 hb.2, hn]
  · rw [← hn]
    exact writeScratch_pack_cell s s.cLat hb.1 hb.2
  · have hall : (bytesBits (pack s.cLat s.block)).take (8 * (pack s.cLat s.block).length) =
        bytesBits (pack s.cLat s.block) := List.take_of_length_le (bytesBits_length _).le
    rw [step_write hr hp, stepWrite_ok hb ha, State.carry, hall]
    rfl
  · refine ⟨Config.cutOfWrite s.draws, ?_⟩
    rw [step_write hr hp, stepWrite_fail hb ha, raiseCommFail_eq, State.carrySome, State.carry]
    rfl

/-- Settles O43: a step completes, or refuses what the decoder rejects. -/
theorem noFaultUnderTheInvariant : Obligations.NoFaultUnderTheInvariant := by
  constructor
  · intro s f hinv hf
    obtain ⟨t, ht⟩ | ⟨-, why, hwhy⟩ := step_completes hinv
    · cases ht.symm.trans hf
    · cases hwhy.symm.trans hf
  · intro s r hinv hr
    obtain ⟨t, ht⟩ | ⟨hp, why, hwhy⟩ := step_completes hinv
    · cases ht.symm.trans hr
    · cases hwhy.symm.trans hr
      exact ⟨hp, why, rfl⟩

/-- Settles O44: only WRITE issues a bus write, and there the invariant gives the line, the trace and the block. -/
theorem busWriteOnlyInsideAFrame : Obligations.BusWriteOnlyInsideAFrame := by
  intro s ws hinv he
  obtain ⟨hp, rfl⟩ := write_of_nextEvent_busWrite he
  obtain ⟨hc, -, hlow, -⟩ := (inv_iff_of_call (by simp [hp])).mp hinv
  obtain ⟨h1, h8⟩ := block_length_of_inCall hc
  have hlen := pack_length_of_block s.cLat h1 h8
  refine ⟨hlow (.inl hp), trace_getLast?_of_write hc hp, by omega, by omega, ?_⟩
  rw [List.headD_eq_getD]
  exact pack_controlBit s.cLat h8 h1

/-- Settles O47: the cursor moves when `CsHigh` is answered `ok`, and a trace is no longer than the frames. -/
theorem cursorOnlyAdvancesByBlocks : Obligations.CursorOnlyAdvancesByBlocks := by
  constructor
  · intro s t hinv hr hp h
    obtain ⟨t', hs, hidx⟩ := step_completes_of_call hinv hr hp
    cases hs.symm.trans h
    exact hidx.imp_right fun ⟨hph, ha, hmove⟩ => ⟨hph, ha, hmove, nCur_bounds hinv⟩
  · intro c B ans cs
    rw [← callEvents_length c B]
    exact sendWhole_trace_length_le c B ans cs

/-- Settles O49: `SEND` accepts the call, and the steps from there come to the loop. -/
theorem stepsRunTheWholeCall : Obligations.StepsRunTheWholeCall := by
  intro s c B st hp hr hst
  obtain ⟨u, hrun, hret⟩ := call_returns hr hst
  exact ⟨_, u, exec_send_idle hp c B, hrun, hret.phase, hret.outstanding, hret.trace, hret.history, hret.answers,
    hret.program⟩

/-- Settles O52, by the three ways a call can stand. -/
theorem traceOfACallIsItsFrames : Obligations.TraceOfACallIsItsFrames := by
  intro c B ans cs
  obtain ⟨hst, ht⟩ | ⟨hst, ht⟩ | ⟨hst, ht⟩ := sendWhole_trace_cases c B ans cs <;> rw [hst] <;> exact ht

/-- Settles O54: block `j` is `B[8j .. 8j + 8)`, as far as `B` goes. -/
theorem blocksAreGreedy : Obligations.BlocksAreGreedy := fun B =>
  ⟨blocks_flatten B, blocks_length B, fun _ => length_of_mem_dropLast_blocks, fun _ h =>
    ⟨length_of_getLast?_blocks h, length_of_mem_blocks (List.mem_of_getLast? h)⟩⟩

/-- Settles O55: each block has one event of each kind, and one byte more on the bus. -/
theorem countsOfACall : Obligations.CountsOfACall := by
  intro c B
  have hcount := fun (e : Event) (h : ∀ K, (blockEvents c K).count e = 1) =>
    (count_flatMap_blockEvents c (blocks B) h).trans (blocks_length B)
  refine ⟨hcount _ fun K => ?_, hcount _ fun K => ?_, ?_, callEvents_length c B, ?_⟩
  · simp [blockEvents]
  · simp [blockEvents]
  · rw [busWrites_callEvents, List.length_map, blocks_length]
  · rw [busWrites_callEvents, length_flatten_map_pack c _ fun _ => length_of_mem_blocks, blocks_flatten,
      blocks_length]

/-- Settles O26: a block fills one byte more than it has, and packing no bytes writes none. -/
theorem packLengthLaw : Obligations.PackLengthLaw := by
  refine ⟨fun c K h1 h8 => pack_length_of_block c h1 h8, fun c s => ?_⟩
  have hnil : pack c [] = [] := rfl
  rw [exec_pack_of_le c (K := []) (Nat.zero_le 8), hnil, writeScratch_nil]
  rfl

/-- Settles O27: the guard of `PACK`. -/
theorem packRefusesLongBlocks : Obligations.PackRefusesLongBlocks := fun c _ s h => exec_pack_of_gt c h s

/-- Settles O31: `SEND` in IDLE is the acceptance of the call. -/
theorem acceptLatchesTheCall : Obligations.AcceptLatchesTheCall := by
  refine fun c B s hp => ⟨fun hB => ?_, fun hB => ?_⟩
  · rw [exec_send_idle hp, accept_of_ne_nil s c hB]
    rfl
  · rw [exec_send_idle hp, hB, accept_nil, ← hp]

/-- Settles O32: the acceptance of an empty call is its end. -/
theorem emptyCallDoesNothing : Obligations.EmptyCallDoesNothing := fun c _ hp =>
  ⟨_, exec_send_idle hp c [], rfl, rfl, rfl, rfl, rfl, rfl, rfl, rfl, rfl, rfl, rfl⟩

/-- Settles O33: the guard of `SEND`. -/
theorem sendOutsideIdleIsRefused : Obligations.SendOutsideIdleIsRefused := fun c B _ hp =>
  exec_send_of_ne_idle hp c B

/-- Settles O34: the step in SELECT, by the answer it draws. -/
theorem selectStep : Obligations.SelectStep := fun _ _ hr hp =>
  ⟨fun ha => (step_select hr hp).trans (stepSelect_ok ha), fun ha => (step_select hr hp).trans (stepSelect_fail ha)⟩

/-- Settles O36: the step in DESELECT, by the answer it draws and by what the advance comes to. -/
theorem deselectStep : Obligations.DeselectStep := by
  intro s rest hinv hr hp
  obtain ⟨hc, -, -⟩ := (inv_iff_of_call (by simp [hp])).mp hinv
  have hstep := step_deselect hr hp
  have hok := fun (ha : s.answers = .ok :: rest) => hstep.trans (stepDeselect_ok ha)
  refine ⟨fun ha hnext => (hok ha).trans (congrArg _ (advance_of_lt hnext)),
    fun ha hend => (hok ha).trans (congrArg _ (advance_of_not_lt hend.not_lt)),
    fun ha => hstep.trans (stepDeselect_fail ha), idx_add_nCur_le hc⟩
end

section
/-! The host's side of a step: what a call leaves to the host, the host's moves in IDLE, and a call of a sequence
whose events are all answered `ok`. -/

namespace Sys2Proof.Machine

/-! ## What a step of a call leaves to the host -/

/-- What a step of a call delivers, and with it what it does to the host's sequence (42_driver_sequences.md R177). -/
inductive CallDelivers (s t : State) : Prop
  | nothing (history : t.history = s.history) (program : t.program = s.program)
  | ok (tr : Trace) (history : t.history = s.history ++ [.returned tr .ok]) (program : t.program = s.program)
  | commFail (tr : Trace) (history : t.history = s.history ++ [.returned tr .commFail])
    (program : t.program = s.program.tail)

section Call
variable {s t : State}

/-- All a step of a call can do to the host's program and to the reset input. -/
theorem step_of_call_delivers (hr : s.resetLine = false) (hp : s.phase ≠ .idle) (hs : step s = .next t) :
    CallDelivers s t ∧ t.resetLine = s.resetLine := by
  cases hph : s.phase with
  | idle => exact absurd hph hp
  | select =>
    rw [step_select hr hph] at hs
    match ha : s.answers with
    | [] => rw [stepSelect_silent ha] at hs; cases hs; exact ⟨.nothing rfl rfl, rfl⟩
    | .ok :: _ => rw [stepSelect_ok ha] at hs; cases hs; exact ⟨.nothing rfl rfl, rfl⟩
    | .fail :: _ => rw [stepSelect_fail ha] at hs; cases hs; exact ⟨.commFail _ rfl rfl, rfl⟩
  | write =>
    rw [step_write hr hph] at hs
    have hb := block_of_stepWrite hs
    match ha : s.answers with
    | [] => rw [stepWrite_silent hb ha] at hs; cases hs; exact ⟨.nothing rfl rfl, rfl⟩
    | .ok :: _ => rw [stepWrite_ok hb ha] at hs; cases hs; exact ⟨.nothing rfl rfl, rfl⟩
    | .fail :: _ => rw [stepWrite_fail hb ha] at hs; cases hs; exact ⟨.commFail _ rfl rfl, rfl⟩
  | deselect =>
    rw [step_deselect hr hph] at hs
    match ha : s.answers with
    | [] => rw [stepDeselect_silent ha] at hs; cases hs; exact ⟨.nothing rfl rfl, rfl⟩
    | .ok :: rest =>
      rw [stepDeselect_ok ha] at hs
      cases hs
      obtain ⟨-, hadv⟩ | ⟨-, hadv⟩ := advance_cases { s.answered .csHigh .ok rest with cs := .high } <;> rw [hadv]
      · exact ⟨.nothing rfl rfl, rfl⟩
      · exact ⟨.ok _ rfl rfl, rfl⟩
    | .fail :: _ => rw [stepDeselect_fail ha] at hs; cases hs; exact ⟨.commFail _ rfl rfl, rfl⟩

end Call

/-! ## The reset input -/

section ResetLine
variable {s t : State}

theorem exec_resetLine {i : Instr} (h : exec i s = .next t) : t.resetLine = s.resetLine := by
  obtain ⟨r, rfl⟩ | ⟨out, r, rfl⟩ | ⟨c, B, -, -, rfl⟩ := exec_cases h
  · rfl
  · rfl
  · unfold State.accept
    split <;> rfl

theorem stepHost_resetLine (h : stepHost s = .next t) : t.resetLine = s.resetLine := by
  obtain ⟨p, rfl⟩ | ⟨p, r, rfl⟩ | ⟨p, i, he⟩ := stepHost_cases h
  · rfl
  · rfl
  · rw [exec_resetLine he]

/-- No step asserts the block reset, which comes from outside (70_reset_and_hazards.md R200, R202). -/
theorem step_resetLine (hr : s.resetLine = false) (hs : step s = .next t) : t.resetLine = false := by
  by_cases hp : s.phase = .idle
  · exact (stepHost_resetLine (step_idle hr hp ▸ hs)).trans hr
  · obtain ⟨-, hkept⟩ := step_of_call_delivers hr hp hs
    exact hkept.trans hr

theorem runSteps_resetLine {n : Nat} (hr : s.resetLine = false) (h : runSteps n s = some t) : t.resetLine = false := by
  induction n generalizing s with
  | zero => cases h; exact hr
  | succ n ih =>
    cases hs : step s with
    | next u => exact ih (step_resetLine hr hs) ((runSteps_succ hs n).symm.trans h)
    | fault _ | refused _ => simp [runSteps, hs] at h

end ResetLine

/-! ## The host's moves in IDLE -/

section Moves
variable {s : State} {acts : List HostAct} {later : List (List HostAct)}
  (hr : s.resetLine = false) (hp : s.phase = .idle)
include hr hp

theorem step_endOfSequence (hprog : s.program = [] :: later) : step s = .next { s with program := later } := by
  simp [step_idle hr hp, stepHost, State.hostMove, hprog]

theorem step_wait {us : Nat} (hprog : s.program = (.waitUs us :: acts) :: later) :
    step s = .next ({ s with program := acts :: later }.record (.waited us)) := by
  simp [step_idle hr hp, stepHost, State.hostMove, hprog]

theorem step_of_decode {r : Request} {i : Instr} (hprog : s.program = (.request r :: acts) :: later)
    (hd : decode r = .ok i) : step s = exec i { s with program := acts :: later } := by
  simp [step_idle hr hp, stepHost, State.hostMove, hprog, hd]

theorem step_call {c : Classification} {B : List Byte} (hprog : s.program = (.request (.call c B) :: acts) :: later) :
    step s = .next ({ s with program := acts :: later }.accept c B) :=
  (step_of_decode hr hp hprog rfl).trans (exec_send_idle (s := { s with program := acts :: later }) hp c B)

end Moves

/-! ## A sequence whose events are all answered `ok` -/

theorem runSteps_add {m : Nat} {s t : State} (h : runSteps m s = some t) (n : Nat) :
    runSteps (m + n) s = runSteps n t := by
  induction m generalizing s with
  | zero => cases h; rw [Nat.zero_add]
  | succ m ih =>
    cases hs : step s with
    | next u => rw [Nat.succ_add, runSteps_succ hs, ih ((runSteps_succ hs m).symm.trans h)]
    | fault _ | refused _ => simp [runSteps, hs] at h

/-- Between two acts of the host: the block is in IDLE with no reset asserted, and this is what the host has still to
do, what the environment has still to answer, and what has been delivered. -/
structure Between (program : List (List HostAct)) (answers : List Answer) (history : List Record) (s : State) :
    Prop where
  phase : s.phase = .idle
  resetLine : s.resetLine = false
  program : s.program = program
  answers : s.answers = answers
  history : s.history = history

theorem blocks_eq_nil_iff {B : List Byte} : blocks B = [] ↔ B = [] := by
  rw [← List.length_eq_zero_iff, ← List.length_eq_zero_iff (l := B), blocks_length]
  omega

theorem sendWhole_oks (c : Classification) (B : List Byte) (rest : List Answer) (cs : Level) :
    sendWhole c B (List.replicate (3 * ((B.length + 7) / 8)) .ok ++ rest) cs =
      ⟨allOk (callEvents c B), some .ok, rest, if B = [] then cs else .high⟩ := by
  rw [← blocks_length, sendWhole, sendBlocks_oks, callEvents]
  simp only [blocks_eq_nil_iff]

section Sequence
variable {acts : List HostAct} {later : List (List HostAct)} {rest : List Answer} {history : List Record} {s : State}

theorem Between.wait {us : Nat} (h : Between ((.waitUs us :: acts) :: later) rest history s) :
    ∃ t, runSteps 1 s = some t ∧ Between (acts :: later) rest (history ++ [.waited us]) t := by
  obtain ⟨hp, hr, hprog, hans, rfl⟩ := h
  exact ⟨_, runSteps_succ (step_wait hr hp hprog) 0, hp, hr, rfl, hans, rfl⟩

/-- A call with enough answers, all `ok`, takes one step for its acceptance and one for each event (R144, R155). -/
theorem Between.call {c : Classification} {B : List Byte}
    (h : Between ((.request (.call c B) :: acts) :: later) (List.replicate (3 * ((B.length + 7) / 8)) .ok ++ rest)
      history s) :
    ∃ u, runSteps (3 * ((B.length + 7) / 8) + 1) s = some u ∧ u.cs = (if B = [] then s.cs else .high) ∧
      Between (acts :: later) rest (history ++ [.returned (allOk (callEvents c B)) .ok]) u := by
  obtain ⟨hp, hr, hprog, hans, rfl⟩ := h
  have hwhole := sendWhole_oks c B rest s.cs
  rw [← hans] at hwhole
  obtain ⟨u, hrun, hret⟩ := call_returns (s := { s with program := acts :: later }) hr
    (congrArg CallResult.status hwhole)
  simp only [hwhole, allOk_length, callEvents_length] at hrun hret
  have hall := (runSteps_succ (step_call hr hp hprog) _).trans hrun
  exact ⟨u, hall, hret.cs, hret.phase, runSteps_resetLine hr hall, hret.program, hret.answers, hret.history⟩

/-- The data calls of a buffer return `OK` line by line, each with the frames of its line (R174). -/
theorem Between.sendLines (buffer : FrameBuffer)
    (h : Between (buffer.flatMap sendData :: later)
      (List.replicate (buffer.map fun l => 3 * ((l.length + 7) / 8)).sum .ok ++ rest) history s) :
    ∃ n u, runSteps n s = some u ∧ Between ([] :: later) rest
      (history ++ buffer.map fun l => .returned (allOk (callEvents .data l)) .ok) u := by
  induction buffer generalizing history s with
  | nil => exact ⟨0, s, rfl, by simpa using h⟩
  | cons l buffer ih =>
    rw [List.map_cons, List.sum_cons, List.replicate_add, List.append_assoc] at h
    obtain ⟨t, hcall, -, ht⟩ := h.call
    obtain ⟨n, u, hlines, hu⟩ := ih ht
    exact ⟨_, u, (runSteps_add hcall n).trans hlines, by simpa using hu⟩

end Sequence

/-! ## The frames of the fixed calls -/

theorem callEvents_reset : callEvents .command [opReset] = [.csLow, .busWrite [0x71, 0x00], .csHigh] := by decide

theorem callEvents_initSequence : callEvents .command opsInitSequence =
    [.csLow, .busWrite [0x17, 0xA7, 0x94, 0x8A, 0x06, 0x02, 0x99, 0x5E, 0x00], .csHigh,
      .csLow, .busWrite [0x08, 0x2C, 0x00], .csHigh] := by decide

theorem callEvents_origin : callEvents .command (opsSetPosition 0 0) =
    [.csLow, .busWrite [0x00, 0x04, 0x16, 0x00], .csHigh] := by decide

end Sys2Proof.Machine
end

section
/-! The obligations of the family `42_driver_sequences`. -/

open Sys2Proof Sys2Proof.Machine

/-- Settles O40: a step of a call drops the sequence with `COMM_FAIL` and leaves the program with anything else. -/
theorem failureEndsTheSequence : Obligations.FailureEndsTheSequence := by
  intro s t _ hr hp hs
  obtain ⟨hdelivers, -⟩ := step_of_call_delivers hr hp hs
  cases hdelivers with
  | nothing hh hprog => exact ⟨fun ⟨tr, htr⟩ => by simp [hh] at htr, fun _ => hprog⟩
  | ok tr' hh hprog => exact ⟨fun ⟨tr, htr⟩ => by simp [hh] at htr, fun _ => hprog⟩
  | commFail tr hh hprog => exact ⟨fun _ => hprog, fun hno => absurd ⟨tr, hh⟩ hno⟩

/-- Settles O58: a call, a wait and a call. -/
theorem initializeSendsItsFrames : Obligations.InitializeSendsItsFrames := by
  intro s later rest hp hr hprog hans
  have hsplit : s.answers = List.replicate 3 .ok ++ (List.replicate 6 .ok ++ rest) := hans
  have hstart : Between (initializePanel :: later) _ s.history s := ⟨hp, hr, hprog, hsplit, rfl⟩
  obtain ⟨t, hreset, -, ht⟩ := Between.call (c := .command) (B := [opReset])
    (acts := .waitUs Config.settleUs :: sendCommands opsInitSequence) hstart
  obtain ⟨v, hwait, hv⟩ := ht.wait
  obtain ⟨u, hinit, hcs, hu⟩ := Between.call (c := .command) (B := opsInitSequence) hv
  refine ⟨u, ?_, hu.phase, hcs, hu.program, hu.answers, ?_⟩
  · exact (runSteps_add hreset 8).trans ((runSteps_add hwait 7).trans hinit)
  · rw [hu.history, callEvents_reset, callEvents_initSequence, List.append_assoc, List.append_assoc]
    rfl

/-- Settles O59: the call of the origin, then the calls of the lines. -/
theorem sendBufferSendsEveryLine : Obligations.SendBufferSendsEveryLine := by
  intro s buffer later hp hr hprog hok hlen
  obtain ⟨k, hk⟩ := Nat.exists_eq_add_of_le hlen
  have hans := List.eq_replicate_of_mem hok
  rw [hk, List.replicate_add, List.replicate_add, List.append_assoc] at hans
  have hstart : Between (sendBuffer buffer :: later) _ s.history s := ⟨hp, hr, hprog, hans, rfl⟩
  obtain ⟨t, horigin, -, ht⟩ := Between.call (c := .command) (B := opsSetPosition 0 0) hstart
  obtain ⟨n, u, hlines, hu⟩ := ht.sendLines
  refine ⟨_, u, (runSteps_add horigin n).trans hlines, hu.phase, hu.program, ?_⟩
  rw [hu.history, callEvents_origin, List.append_assoc]
  rfl

/-- Settles O23: the two moves that issue no request. -/
theorem hostMovesInIdle : Obligations.HostMovesInIdle :=
  ⟨fun _ _ hr hp hprog => step_endOfSequence hr hp hprog, fun _ _ _ _ hr hp hprog => step_wait hr hp hprog⟩
end

section
/-! A call that waits: its silent step, and the run of a call whose answers end before it does. -/

namespace Sys2Proof.Machine

/-! ## The silent step -/

/-- The state of a call that waits for the answer to its next event: the event is outstanding, and in WRITE the
current block is packed (60_exceptions.md R196; log 4, 5). -/
@[simps] def State.waiting (s : State) : State :=
  { s with
    outstanding := s.nextEvent
    scratch := if s.phase = .write then (s.writeScratch (pack s.cLat s.block)).scratch else s.scratch }

theorem waiting_of_write {s : State} (hp : s.phase = .write) :
    s.waiting = { s.packed with outstanding := s.nextEvent } := by
  rw [State.waiting, if_pos hp]
  rfl

theorem waiting_of_ne_write {s : State} (hp : s.phase ≠ .write) : s.waiting = { s with outstanding := s.nextEvent } := by
  rw [State.waiting, if_neg hp]

/-- Waiting on changes nothing more: the block is packed as it was. -/
theorem waiting_waiting (s : State) : s.waiting.waiting = s.waiting := by
  by_cases hp : s.phase = .write
  · have hpacked : s.packed.packed = s.packed := writeScratch_twice s (pack s.cLat s.block)
    rw [waiting_of_write (s := s.waiting) hp, waiting_of_write hp]
    exact congrArg (fun p : State => { p with outstanding := s.nextEvent }) hpacked
  · rw [waiting_of_ne_write (s := s.waiting) hp, waiting_of_ne_write hp]
    rfl

section Silence
variable {s : State} (h : s.inv) (hr : s.resetLine = false) (hp : s.phase ≠ .idle) (ha : s.answers = [])
include h hr hp ha

theorem step_of_silence : step s = .next s.waiting := by
  obtain ⟨hc, -⟩ := (inv_iff_of_call hp).mp h
  cases hph : s.phase with
  | idle => exact absurd hph hp
  | select =>
    rw [step_select hr hph, stepSelect_silent ha, waiting_of_ne_write (by simp [hph]), nextEvent_of_select hph]
  | write =>
    rw [step_write hr hph, stepWrite_silent (block_length_of_inCall hc) ha, waiting_of_write hph,
      nextEvent_of_write hph]
  | deselect =>
    rw [step_deselect hr hph, stepDeselect_silent ha, waiting_of_ne_write (by simp [hph]), nextEvent_of_deselect hph]

theorem runSteps_of_silence (n : Nat) : runSteps (n + 1) s = some s.waiting := by
  have hs := step_of_silence h hr hp ha
  induction n generalizing s with
  | zero => exact runSteps_succ hs 0
  | succ n ih =>
    have hw := inv_step h hs
    rw [runSteps_succ hs, ih hw hr hp ha (step_of_silence hw hr hp ha), waiting_waiting]

end Silence

/-! ## The answers of a call that waits -/

/-- While a call waits, every event of its trace has drawn one `ok`, and no other answer was at hand. -/
theorem sendBlocks_answers_of_waiting (c : Classification) (L : List (List Byte)) (ans : List Answer) (cs : Level)
    (h : (sendBlocks c L ans cs).status = none) :
    ans = List.replicate (sendBlocks c L ans cs).trace.length Answer.ok := by
  induction L, ans, cs using sendBlocks.induct with
  | case1 | case3 | case5 | case7 => cases h
  | case2 | case4 | case6 => rfl
  | case8 K L ans cs ih =>
    have hans := ih h
    calc Answer.ok :: .ok :: .ok :: ans
        = List.replicate ((sendBlocks c L ans .high).trace.length + 3) .ok :=
          congrArg (Answer.ok :: .ok :: .ok :: ·) hans
      _ = List.replicate (sendBlocks c (K :: L) (.ok :: .ok :: .ok :: ans) cs).trace.length .ok := by
          rw [sendBlocks, CallResult.after, List.length_append, Nat.add_comm]
          rfl

/-- A call waits when fewer answers than it has events are at hand, all of them `ok`. -/
theorem sendWhole_waiting {c : Classification} {B : List Byte} {ans : List Answer} {cs : Level}
    (h : (sendWhole c B ans cs).status = none) :
    ∃ k < (callEvents c B).length, ans = List.replicate k Answer.ok ∧
      (sendWhole c B ans cs).trace = allOk ((callEvents c B).take k) := by
  obtain ⟨k, hk, ht⟩ := sendBlocks_trace_of_waiting c (blocks B) ans cs h
  have hans := sendBlocks_answers_of_waiting c (blocks B) ans cs h
  rw [ht, allOk_length, List.length_take, Nat.min_eq_left hk.le] at hans
  exact ⟨k, hk, hans, ht⟩

/-! ## The run of a call that comes to wait -/

section Runs
variable {s₀ s : State} {c : Classification} {B : List Byte} {rest : List Answer}

/-- Fewer events answered `ok` than the call has left leave it in progress, so many events further. -/
theorem Calling.run_part (m : Nat) (h : Calling s₀ c B s) (hm : s.trace.length + m < (callEvents c B).length)
    (ha : s.answers = List.replicate m Answer.ok ++ rest) :
    ∃ u, runSteps m s = some u ∧ Calling s₀ c B u ∧ u.trace.length = s.trace.length + m ∧ u.answers = rest := by
  induction m generalizing s with
  | zero => exact ⟨s, rfl, h, rfl, ha⟩
  | succ m ih =>
    obtain ⟨t, hs, ⟨ht, hlen, hans⟩ | ⟨hlast, -⟩⟩ := h.step_ok ha
    · obtain ⟨u, hrun, hu, hulen, hurest⟩ := ih ht (by omega) hans
      exact ⟨u, (runSteps_succ hs m).trans hrun, hu, by omega, hurest⟩
    · omega

/-- A call without answers keeps all but what it waits for, however many steps pass. -/
theorem Calling.run_silent (n : Nat) (h : Calling s₀ c B s) (ha : s.answers = []) :
    ∃ u, runSteps n s = some u ∧ u.phase = s.phase ∧ u.trace = s.trace ∧ u.history = s.history ∧ u.answers = [] := by
  cases n with
  | zero => exact ⟨s, rfl, rfl, rfl, rfl, ha⟩
  | succ n => exact ⟨_, runSteps_of_silence h.inv h.resetLine h.running ha n, rfl, rfl, rfl, ha⟩

end Runs

/-- The steps of an accepted call whose answers run out come to what the loop of 41_bitpack_transmitter.md R144 says,
and stay there. -/
theorem call_waits {s : State} {c : Classification} {B : List Byte} (hr : s.resetLine = false)
    (hst : (sendWhole c B s.answers s.cs).status = none) {n : Nat}
    (hn : (sendWhole c B s.answers s.cs).trace.length ≤ n) :
    ∃ u, runSteps n (s.accept c B) = some u ∧ u.phase ≠ .idle ∧ u.trace = (sendWhole c B s.answers s.cs).trace ∧
      u.history = s.history ∧ u.answers = [] := by
  obtain ⟨k, hk, hans, ht⟩ := sendWhole_waiting hst
  have hB : B ≠ [] := by
    rintro rfl
    cases hk
  obtain ⟨hcall, htr, hsame⟩ := calling_accept hr c hB
  obtain ⟨v, hrun, hv, hvlen, hvans⟩ := hcall.run_part (rest := []) k (by simpa [htr] using hk)
    (by rw [hsame, List.append_nil, hans])
  have hvtrace : v.trace = allOk ((callEvents c B).take k) := by
    have hframes := trace_of_inCall hv.inCall hv.running
    rwa [hvlen, htr, List.length_nil, Nat.zero_add, hv.cLat, hv.bytes] at hframes
  rw [ht, allOk_length, List.length_take, Nat.min_eq_left hk.le] at hn
  obtain ⟨d, rfl⟩ := Nat.exists_eq_add_of_le hn
  obtain ⟨u, hrest, hphase, htrace, hhist, hnone⟩ := hv.run_silent d hvans
  exact ⟨u, (runSteps_add hrun d).trans hrest, hphase ▸ hv.running, htrace.trans (hvtrace.trans ht.symm),
    hhist.trans hv.history, hnone⟩

end Sys2Proof.Machine
end

section
/-! A call that fails: which step returns `COMM_FAIL`, and the state it leaves. -/

namespace Sys2Proof.Machine

/-! ## Steps that do not fail -/

section NoFail
variable {s t : State} {tr : Trace}

/-- No operation delivers `COMM_FAIL` (60_exceptions.md R183). -/
theorem exec_history_ne_commFail {i : Instr} (h : exec i s = .next t) :
    t.history ≠ s.history ++ [.returned tr .commFail] := by
  cases hop : builderOutput i with
  | some op =>
    cases (exec_of_builderOutput hop s).symm.trans h
    simp
  | none =>
    cases i with
    | initSequence | setPosition =>
      cases h
      simp
    | pack c K =>
      have hK : K.length ≤ 8 := by
        by_contra hlong
        cases (exec_pack_of_gt c (Nat.not_le.mp hlong) s).symm.trans h
      cases (exec_pack_of_le c hK s).symm.trans h
      simp
    | send c B =>
      have hp : s.phase = .idle := by
        by_contra hbusy
        cases (exec_send_of_ne_idle hbusy c B).symm.trans h
      cases (exec_send_idle hp c B).symm.trans h
      by_cases hB : B = []
      · rw [hB, accept_nil]
        simp
      · rw [accept_of_ne_nil s c hB]
        simp
    | _ => cases hop

theorem stepHost_history_ne_commFail (h : stepHost s = .next t) :
    t.history ≠ s.history ++ [.returned tr .commFail] := by
  obtain ⟨-, hm⟩ | ⟨later, -, hm⟩ | ⟨us, acts, later, -, hm⟩ | ⟨r, acts, later, -, hm⟩ := hostMove_cases s <;>
    simp only [stepHost, hm] at h
  · cases h
    simp
  · cases h
    simp
  · cases h
    simp
  · cases hd : decode r with
    | ok i =>
      rw [hd] at h
      exact exec_history_ne_commFail (s := { s with program := acts :: later }) h
    | error why =>
      rw [hd] at h
      cases h

theorem blockReset_history_ne_commFail (l : List Record) : s.blockReset.history ≠ l ++ [.returned tr .commFail] := by
  intro h
  have hlast := congrArg List.getLast? h
  rw [State.blockReset, List.getLast?_concat, List.getLast?_concat] at hlast
  cases hlast

end NoFail

/-! ## The step that fails -/

theorem calling_self {s : State} (h : s.inv) (hr : s.resetLine = false) (hp : s.phase ≠ .idle) :
    Calling s s.cLat s.bytes s :=
  ⟨h, hp, hr, rfl, rfl, rfl, rfl⟩

/-- A step that returns `COMM_FAIL` is a step of a call whose next answer is `fail` (R183). -/
theorem fail_of_commFail {s t : State} {tr : Trace} (h : s.inv) (hs : step s = .next t)
    (hh : t.history = s.history ++ [.returned tr .commFail]) :
    s.resetLine = false ∧ s.phase ≠ .idle ∧ ∃ rest, s.answers = .fail :: rest := by
  cases hr : s.resetLine with
  | true =>
    rw [step, if_pos hr] at hs
    cases hs
    exact absurd hh (blockReset_history_ne_commFail _)
  | false =>
    by_cases hp : s.phase = .idle
    · exact absurd hh (stepHost_history_ne_commFail (step_idle hr hp ▸ hs))
    refine ⟨rfl, hp, ?_⟩
    match ha : s.answers with
    | [] =>
      cases (step_of_silence h hr hp ha).symm.trans hs
      simp at hh
    | .ok :: rest =>
      obtain ⟨u, hu, hnext⟩ := (calling_self h hr hp).step_ok ha
      cases hu.symm.trans hs
      obtain ⟨ht, -⟩ | ⟨-, hret⟩ := hnext
      · simp [ht.history] at hh
      · simp [hret.history] at hh
    | .fail :: rest => exact ⟨rest, rfl⟩

/-- The bits a bus write can put on the wire; a pin request has none (20_memory.md R51). -/
def Event.bits : Event → List Bool
  | .busWrite ws => bytesBits ws
  | .csLow | .csHigh => []

/-- A failed event saves and repairs nothing: the cursor, the classification and the block size stand, and the wire has
some first part of the event's bits (60_exceptions.md R184, 93_implementation_defined.md U2). -/
theorem step_fail_keeps {s t : State} {e : Event} {rest : List Answer} (hr : s.resetLine = false)
    (he : s.nextEvent = some e) (ha : s.answers = .fail :: rest) (hs : step s = .next t) :
    t.idx = s.idx ∧ t.cLat = s.cLat ∧ t.nCur = s.nCur ∧ ∃ n, t.wire = s.wire ++ e.bits.take n := by
  cases hp : s.phase with
  | idle => simp [State.nextEvent, hp] at he
  | select =>
    cases (nextEvent_of_select hp).symm.trans he
    cases ((step_select hr hp).trans (stepSelect_fail ha)).symm.trans hs
    exact ⟨rfl, rfl, rfl, 0, (List.append_nil _).symm⟩
  | write =>
    cases (nextEvent_of_write hp).symm.trans he
    rw [step_write hr hp] at hs
    cases (stepWrite_fail (block_of_stepWrite hs) ha).symm.trans hs
    exact ⟨rfl, rfl, rfl, _, rfl⟩
  | deselect =>
    cases (nextEvent_of_deselect hp).symm.trans he
    cases ((step_deselect hr hp).trans (stepDeselect_fail ha)).symm.trans hs
    exact ⟨rfl, rfl, rfl, 0, (List.append_nil _).symm⟩

/-- All a step that returned `COMM_FAIL` has done: the call it belonged to has returned with its trace and the failed
event. -/
theorem returned_of_commFail {s t : State} {tr : Trace} (h : s.inv) (hs : step s = .next t)
    (hh : t.history = s.history ++ [.returned tr .commFail]) :
    s.resetLine = false ∧ s.phase ≠ .idle ∧ ∃ e rest, s.nextEvent = some e ∧ s.answers = .fail :: rest ∧
      tr = s.trace ++ [(e, .fail)] ∧ Returned s ⟨tr, some .commFail, rest, e.lineAfterFail⟩ .commFail t := by
  obtain ⟨hr, hp, rest, ha⟩ := fail_of_commFail h hs hh
  obtain ⟨e, he⟩ := Option.ne_none_iff_exists'.mp (nextEvent_ne_none hp)
  obtain ⟨u, hu, hret⟩ := (calling_self h hr hp).step_fail ha he
  cases hu.symm.trans hs
  obtain rfl : s.trace ++ [(e, .fail)] = tr := by simpa [hh] using hret.history.symm
  exact ⟨hr, hp, e, rest, he, ha, rfl, hret⟩

/-- The trace of a call in progress: the frames of the earlier blocks, and the events of the current one (R151). -/
theorem trace_eq_frames {s : State} (hc : s.inCall) :
    s.trace = allOk ((callEvents s.cLat s.bytes).take (3 * (s.idx / 8)) ++
      (blockEvents s.cLat s.block).take s.phase.eventsDone) := by
  obtain ⟨hlt, h8, hn, ht⟩ := hc
  have hdone : s.phase.eventsDone < 3 := by cases s.phase <;> decide
  have hblock : ((callEvents s.cLat s.bytes).drop (3 * (s.idx / 8))).take s.phase.eventsDone =
      (blockEvents s.cLat s.block).take s.phase.eventsDone := by
    refine List.ext_getElem? fun r => ?_
    rw [List.getElem?_take, List.getElem?_take, List.getElem?_drop]
    split
    · rw [callEvents_getElem? _ _ _ _ (by omega) hlt h8, ← (block_of_greedy hn).1]
    · rfl
  rw [ht, List.take_add, hblock]

end Sys2Proof.Machine
end

section
/-! The obligations of the family `60_exceptions`. -/

open Sys2Proof Sys2Proof.Machine

/-- Settles O37: the first silent step leads to a waiting state, and waiting on changes nothing. -/
theorem silentEnvironmentHangsTheCall : Obligations.SilentEnvironmentHangsTheCall := fun _ h hr hp ha =>
  runSteps_of_silence h hr hp ha

/-- Settles O38: a failed event ends the call with `COMM_FAIL`, and no other step delivers it. -/
theorem commFailRaisedAtThreePoints : Obligations.CommFailRaisedAtThreePoints := by
  refine ⟨fun s t tr h hs hh => ?_, fun s h hr hp ha => ?_, fun i s t tr => exec_history_ne_commFail⟩
  · obtain ⟨-, hp, e, rest, he, ha, htr, -⟩ := returned_of_commFail h hs hh
    exact ⟨hp, e, he, by rw [ha]; rfl, htr⟩
  · obtain ⟨rest, hrest⟩ := List.head?_eq_some_iff.mp ha
    obtain ⟨e, he⟩ := Option.ne_none_iff_exists'.mp (nextEvent_ne_none hp)
    obtain ⟨t, hs, hret⟩ := (calling_self h hr hp).step_fail hrest he
    exact ⟨t, _, hs, hret.history⟩

/-- Settles O39: what the failing step keeps, and the trace by the events of the current block. -/
theorem stateAfterCommFail : Obligations.StateAfterCommFail := by
  intro s t tr h hs hh
  obtain ⟨hr, hp, e, rest, he, ha, rfl, hret⟩ := returned_of_commFail h hs hh
  obtain ⟨hidx, hcLat, hnCur, n, hwire⟩ := step_fail_keeps hr he ha hs
  obtain ⟨hc, -⟩ := (inv_iff_of_call hp).mp h
  have htr := trace_eq_frames hc
  refine ⟨hret.phase, hret.outstanding, hret.trace, hidx, hcLat, hnCur, fun hph => ?_, fun hph => ?_, fun hph => ?_⟩ <;>
    rw [hph] at htr
  · cases (nextEvent_of_select hph).symm.trans he
    exact ⟨hret.cs, by simpa [Event.bits] using hwire, by simpa [Phase.eventsDone] using htr⟩
  · cases (nextEvent_of_write hph).symm.trans he
    exact ⟨hret.cs, by rw [htr]; rfl, n, hwire⟩
  · cases (nextEvent_of_deselect hph).symm.trans he
    exact ⟨hret.cs, by simpa [Event.bits] using hwire, by rw [htr]; rfl⟩

/-- Settles O46: an operation delivers a result, packs a block, or accepts a call. -/
theorem instructionsEmitNoEvent : Obligations.InstructionsEmitNoEvent := by
  intro i s t h
  obtain ⟨r, rfl⟩ | ⟨out, r, rfl⟩ | ⟨c, B, -, -, rfl⟩ := exec_cases h
  · exact ⟨rfl, rfl, rfl, rfl, rfl, rfl⟩
  · exact ⟨rfl, rfl, rfl, rfl, rfl, rfl⟩
  · by_cases hB : B = []
    · rw [hB, accept_nil]
      exact ⟨rfl, rfl, rfl, rfl, rfl, rfl⟩
    · rw [accept_of_ne_nil s c hB]
      exact ⟨rfl, rfl, rfl, rfl, rfl, rfl⟩

/-- Settles O51: the answers at hand are drawn, and from there the call waits. -/
theorem callWithoutAnswersStaysInProgress : Obligations.CallWithoutAnswersStaysInProgress := fun _ c B hp hr hst =>
  ⟨_, exec_send_idle hp c B, fun _ hn => call_waits hr hst hn⟩

/-- Settles O53: a call that waits has drawn fewer answers than it has events. -/
theorem answeredCallsEnd : Obligations.AnsweredCallsEnd := by
  refine ⟨fun c B ans cs hlen hst => ?_, fun c B rest cs => ?_⟩
  · obtain ⟨k, hk, rfl, -⟩ := sendWhole_waiting hst
    rw [List.length_replicate, ← callEvents_length c B] at hlen
    omega
  · rw [sendWhole_oks]
    exact ⟨rfl, rfl, rfl⟩
end

section
/-! The block reset: what it carries, what it records, and the line it leaves. -/

namespace Sys2Proof.Machine

variable {s : State}

/-! ## What the bus carries of an unanswered event -/

/-- An unanswered bus write has reached the wire in part (93_implementation_defined.md U2). -/
theorem carryOutstanding_of_busWrite {ws : List Byte} (h : s.outstanding = some (.busWrite ws)) :
    s.carryOutstanding = s.carrySome ws := by
  rw [State.carryOutstanding, h]

/-- Nothing else reaches the wire: a pin request has no bits. -/
theorem carryOutstanding_of_no_busWrite (h : ∀ ws, s.outstanding ≠ some (.busWrite ws)) : s.carryOutstanding = s := by
  unfold State.carryOutstanding
  split
  next ws hws => exact absurd hws (h ws)
  all_goals rfl

/-- Either way nothing is delivered and no answer is drawn. -/
theorem carryOutstanding_keeps (s : State) :
    s.carryOutstanding.history = s.history ∧ s.carryOutstanding.answers = s.answers := by
  by_cases h : ∃ ws, s.outstanding = some (.busWrite ws)
  · obtain ⟨ws, hws⟩ := h
    rw [carryOutstanding_of_busWrite hws]
    exact ⟨rfl, rfl⟩
  · rw [carryOutstanding_of_no_busWrite (not_exists.mp h)]
    exact ⟨rfl, rfl⟩

/-! ## What the host gives up -/

/-- A reset during a call costs the host the sequence the call belonged to, and nothing else. -/
theorem abandonCall_of_call (h : s.phase ≠ .idle) : s.abandonCall = s.dropSequence := by
  unfold State.abandonCall
  split
  next hp => exact absurd hp h
  all_goals rfl

theorem abandonCall_eq (s : State) : ∃ p, s.abandonCall = { s with program := p } := by
  by_cases h : s.phase = .idle
  · exact ⟨_, abandonCall_idle h⟩
  · exact ⟨_, abandonCall_of_call h⟩

/-! ## The state after a block reset -/

/-- The block reset comes before any move of the host or of the call (70_reset_and_hazards.md R202). -/
theorem step_of_reset (hr : s.resetLine = true) : step s = .next s.blockReset := if_pos hr

theorem blockReset_nCur_bounds (s : State) : 1 ≤ s.blockReset.nCur ∧ s.blockReset.nCur ≤ 8 :=
  nCur_bounds (inv_blockReset s)

@[simp] theorem blockReset_answers (s : State) : s.blockReset.answers = s.answers := by
  obtain ⟨p, hp⟩ := abandonCall_eq s.carryOutstanding
  obtain ⟨-, hanswers⟩ := carryOutstanding_keeps s
  simp only [State.blockReset, hp, hanswers]

@[simp] theorem blockReset_history (s : State) :
    s.blockReset.history = s.history ++ [.blockReset s.trace s.outstanding] := by
  obtain ⟨p, hp⟩ := abandonCall_eq s.carryOutstanding
  obtain ⟨hhistory, -⟩ := carryOutstanding_keeps s
  simp only [State.blockReset, hp, hhistory]

@[simp] theorem blockReset_wire (s : State) : s.blockReset.wire = s.carryOutstanding.wire := by
  obtain ⟨p, hp⟩ := abandonCall_eq s.carryOutstanding
  simp only [State.blockReset, hp]

/-- A frame may be open in WRITE and DESELECT, and in SELECT once `CsLow` has been issued (R202). -/
theorem frameMayBeOpen_iff (s : State) : s.frameMayBeOpen = true ↔
    s.phase = .write ∨ s.phase = .deselect ∨ (s.phase = .select ∧ s.outstanding ≠ none) := by
  cases hp : s.phase <;> simp [State.frameMayBeOpen, hp, Option.isSome_iff_ne_none]

theorem blockReset_cs (s : State) : s.blockReset.cs =
    if s.phase = .write ∨ s.phase = .deselect ∨ (s.phase = .select ∧ s.outstanding ≠ none) then .unknown
    else .high :=
  if_congr (frameMayBeOpen_iff s) rfl rfl

/-! ## The host without a call -/

/-- A host with an empty program asks for nothing (70_reset_and_hazards.md R201). -/
theorem step_of_empty_program (hr : s.resetLine = false) (hp : s.phase = .idle) (hprog : s.program = []) :
    step s = .next s := by
  simp [step_idle hr hp, stepHost, State.hostMove, hprog]

end Sys2Proof.Machine
end

section
/-! The obligations of the family `70_reset_and_hazards`. -/

open Sys2Proof Sys2Proof.Machine

/-- Settles O48: the step is the block reset, field by field. -/
theorem blockResetAbandonsTheCall : Obligations.BlockResetAbandonsTheCall := by
  intro s hr
  obtain ⟨h1, h8⟩ := blockReset_nCur_bounds s
  refine ⟨_, step_of_reset hr, rfl, rfl, h1, h8, rfl, rfl, rfl, blockReset_answers s, blockReset_history s,
    blockReset_cs s, fun ws hws => ?_, fun hno => ?_⟩
  · rw [blockReset_wire, carryOutstanding_of_busWrite hws]
    exact ⟨_, State.carrySome_wire s ws⟩
  · rw [blockReset_wire, carryOutstanding_of_no_busWrite hno]

/-- Settles O21: the host's move is to issue the request, and the decoder names its operation. -/
theorem stepRunsDecodedRequest : Obligations.StepRunsDecodedRequest := fun _ _ _ _ _ hr hp hprog hd =>
  step_of_decode hr hp hprog hd

/-- Settles O22: the state after reset is an idle state without a program. -/
theorem idleWaitsForACall : Obligations.IdleWaitsForACall :=
  ⟨step_of_empty_program rfl rfl rfl, fun _ hr hp hprog => step_of_empty_program hr hp hprog⟩
end

section
/-! The obligations of the family `other`. -/

namespace Sys2Proof

/-- A request decodes to the well-formed instruction whose encoding it is. -/
theorem decode_of_encode_eq {i : Instr} {r : Request} (hwf : i.wf = true) (he : encode i = r) :
    decode r = .ok i :=
  he ▸ decodeOfEncode i hwf

end Sys2Proof

open Sys2Proof

/-- Settles O19: each word is the encoding of a well-formed instruction (30_encoding.md R81, R85), and what
is encoded decodes. -/
theorem writtenOutWordsDecode : Obligations.WrittenOutWordsDecode := by
  unfold Obligations.WrittenOutWordsDecode
  and_intros <;> exact decode_of_encode_eq rfl rfl
end
